-- ==== Sys2Proof/Word.lean ====
section
/-! DEFINITION. The bit-vector types of the engine (00_scope.md rule R6: bit 0 is the least significant bit). -/

namespace Sys2Proof

/-- `u32`: a state word, a 32-bit operand (00_scope.md rule R6, 10_state.md rule R21). -/
abbrev Word := BitVec 32

/-- `u64`: one of the halves `s0`, `s1` (10_state.md rule R22). -/
abbrev DWord := BitVec 64

/-- `u128`: the whole state `S`, and the operand field `ARG` (10_state.md rule R22, 30_encoding.md rule R52). -/
abbrev QWord := BitVec 128

/-- A command word, `OP` in bits 131 to 128 and `ARG` below it (30_encoding.md rule R52). -/
abbrev CmdWord := BitVec 132

/-- The response data `RES` (30_encoding.md rule R58). -/
abbrev Res := BitVec 256

/-- `{w, z, y, x}`: four words side by side, the last one in the least significant bits (00_scope.md rule R6). -/
def joinWords (w z y x : Word) : QWord := w ++ (z ++ (y ++ x))

end Sys2Proof
end

