-- ==== Sys2Proof/Syntax.lean ====
section
/-! DEFINITION. The instruction set: one constructor for each row of spec/opcode_table.json
(30_encoding.md rule R55). Operands are raw bit patterns (30_encoding.md rule R54). -/

namespace Sys2Proof

/-- The ten commands. An `int32` operand is its two's-complement pattern (00_scope.md rule R7). -/
inductive Instr where
  /-- `FROMSEED seed` (40_construct.md rule R70). -/
  | fromSeed (seed : Word)
  /-- `FROMSTATE64 s0, s1` (40_construct.md rule R71). -/
  | fromState64 (s0 s1 : DWord)
  /-- `FROMSTATE32 x, y, z, w` (40_construct.md rule R72). -/
  | fromState32 (x y z w : Word)
  /-- `GETSTATE32` (41_inspect.md rule R80). -/
  | getState32
  /-- `GETSTATE64` (41_inspect.md rule R81). -/
  | getState64
  /-- `FULLSTATE` (41_inspect.md rule R82). -/
  | fullState
  /-- `NEXT` (42_advance.md rule R90). -/
  | next
  /-- `NEXTU32` (42_advance.md rule R91). -/
  | nextU32
  /-- `NEXTBOUNDED max` (43_bounded.md rule R100). -/
  | nextBounded (max : Word)
  /-- `NEXTRANGED start, end` (43_bounded.md rule R101); `stop` is the operand the spec names `end`. -/
  | nextRanged (start stop : Word)
  deriving DecidableEq, Repr

end Sys2Proof
end

