-- ==== Sys2Proof/WellFormed.lean ====
section
/-! DEFINITION. What is checked of an instruction and of an assembler line. An instruction's fields have exactly the
widths of its format, and no legal opcode is illegal because of its operand bits (30_encoding.md rules R54, R56), so the
checks of the spec are all about the written line (30_encoding.md rule R63). -/

namespace Sys2Proof

/-- Every instruction is well formed: "a command word is legal whatever they hold" (30_encoding.md rules R54, R56). -/
def Instr.wf : Instr → Bool
  | .fromSeed _ => true
  | .fromState64 _ _ => true
  | .fromState32 _ _ _ _ => true
  | .getState32 => true
  | .getState64 => true
  | .fullState => true
  | .next => true
  | .nextU32 => true
  | .nextBounded _ => true
  | .nextRanged _ _ => true

namespace Asm

/-- The mnemonics of 30_encoding.md rule R63. -/
inductive Mnemonic where
  | FROMSEED | FROMSTATE64 | FROMSTATE32 | GETSTATE32 | GETSTATE64 | FULLSTATE
  | NEXT | NEXTU32 | NEXTBOUNDED | NEXTRANGED
  deriving DecidableEq, Repr

/-- A written operand: a number, or `*` for a default (30_encoding.md rules R63, R64). -/
inductive Operand where
  | num (v : Int)
  | star
  deriving DecidableEq, Repr

/-- A written line without its comment: a mnemonic with operands, or `.word` (30_encoding.md rule R63). -/
inductive Line where
  | op (m : Mnemonic) (operands : List Operand)
  | word (c : CmdWord)
  deriving DecidableEq, Repr

/-- A `uint32` operand lies in `[0, 2^32)` (30_encoding.md rule R63). -/
def Operand.isU32 : Operand → Bool
  | .num v => decide (0 ≤ v) && decide (v < 2 ^ 32)
  | .star => false

/-- A `uint64` operand lies in `[0, 2^64)` (30_encoding.md rule R63). -/
def Operand.isU64 : Operand → Bool
  | .num v => decide (0 ≤ v) && decide (v < 2 ^ 64)
  | .star => false

/-- An `int32` operand is a signed number in `[-2^31, 2^31)` or an unsigned pattern in `[0, 2^32)`; `*` stands for
its default (30_encoding.md rules R63, R64). -/
def Operand.isI32 : Operand → Bool
  | .num v => decide (-(2 ^ 31) ≤ v) && decide (v < 2 ^ 32)
  | .star => true

/-- The number and the ranges of a line's operands (30_encoding.md rules R63, R64). -/
def Line.wf : Line → Bool
  | .word _ => true
  | .op .FROMSEED os => os.length == 1 && os.all Operand.isU32
  | .op .FROMSTATE64 os => os.length == 2 && os.all Operand.isU64
  | .op .FROMSTATE32 os => os.length == 4 && os.all Operand.isU32
  | .op .GETSTATE32 os => os.isEmpty
  | .op .GETSTATE64 os => os.isEmpty
  | .op .FULLSTATE os => os.isEmpty
  | .op .NEXT os => os.isEmpty
  | .op .NEXTU32 os => os.isEmpty
  | .op .NEXTBOUNDED os => os.length == 1 && os.all Operand.isU32
  | .op .NEXTRANGED os => decide (os.length ≤ 2) && os.all Operand.isI32

end Asm
end Sys2Proof
end

