-- ==== Sys2Proof/Decode.lean ====
section
/-! DEFINITION. Decoding a command word, total on all `2^132` words (30_encoding.md rules R52 to R56, R61, R62), and
after it the encoder, from the same tables. -/

namespace Sys2Proof

/-- What a command word decodes to (30_encoding.md rule R62). -/
inductive Decoded where
  /-- one of the ten instructions with its operands -/
  | instr (i : Instr)
  /-- a reserved opcode, refused with `ILLEGAL` (30_encoding.md rule R56) -/
  | reserved (op : BitVec 4)
  deriving DecidableEq, Repr

/-- `OP = cmd[131:128]` (30_encoding.md rule R52). -/
def opField (c : CmdWord) : BitVec 4 := c.extractLsb' 128 4

/-- `ARG = cmd[127:0]` (30_encoding.md rule R52). -/
def argField (c : CmdWord) : QWord := c.extractLsb' 0 128

/-- The `k`-th 32-bit operand, `ARG[32k+31 : 32k]` (30_encoding.md rule R53, formats `A`, `AB`, `Q`). -/
def argWord (arg : QWord) (k : Nat) : Word := arg.extractLsb' (32 * k) 32

/-- The `k`-th 64-bit operand, `ARG[64k+63 : 64k]` (30_encoding.md rule R53, format `D`). -/
def argDWord (arg : QWord) (k : Nat) : DWord := arg.extractLsb' (64 * k) 64

/-- The opcode map (30_encoding.md rule R55); bits that the format does not name are dropped (rule R54). -/
def decode (c : CmdWord) : Decoded :=
  let arg := argField c
  match opField c with
  | 0x1#4 => .instr (.fromSeed (argWord arg 0))
  | 0x2#4 => .instr (.fromState64 (argDWord arg 0) (argDWord arg 1))
  | 0x3#4 => .instr (.fromState32 (argWord arg 0) (argWord arg 1) (argWord arg 2) (argWord arg 3))
  | 0x4#4 => .instr .getState32
  | 0x5#4 => .instr .getState64
  | 0x6#4 => .instr .fullState
  | 0x8#4 => .instr .next
  | 0x9#4 => .instr .nextU32
  | 0xA#4 => .instr (.nextBounded (argWord arg 0))
  | 0xB#4 => .instr (.nextRanged (argWord arg 0) (argWord arg 1))
  | op => .reserved op

/-- The opcode of an instruction (30_encoding.md rule R55). -/
def opcode : Instr → BitVec 4
  | .fromSeed _ => 0x1#4
  | .fromState64 _ _ => 0x2#4
  | .fromState32 _ _ _ _ => 0x3#4
  | .getState32 => 0x4#4
  | .getState64 => 0x5#4
  | .fullState => 0x6#4
  | .next => 0x8#4
  | .nextU32 => 0x9#4
  | .nextBounded _ => 0xA#4
  | .nextRanged _ _ => 0xB#4

/-- The operand field with every unused bit 0 (30_encoding.md rules R53, R54, R63): the first-named operand lies in the
least significant bits. -/
def operandField : Instr → QWord
  | .fromSeed seed => seed.setWidth 128
  | .fromState64 s0 s1 => s1 ++ s0
  | .fromState32 x y z w => joinWords w z y x
  | .getState32 => 0#128
  | .getState64 => 0#128
  | .fullState => 0#128
  | .next => 0#128
  | .nextU32 => 0#128
  | .nextBounded max => max.setWidth 128
  | .nextRanged start stop => (stop ++ start).setWidth 128

/-- The command word of an instruction, `OP * 2^128 + ARG` (30_encoding.md rule R52). -/
def encode (i : Instr) : CmdWord := opcode i ++ operandField i

/-- The bits of the operand field that the format of the instruction names (30_encoding.md rules R53, R54). -/
def operandMask : Instr → QWord
  | .fromSeed _ => 0xFFFFFFFF#128
  | .fromState64 _ _ => BitVec.allOnes 128
  | .fromState32 _ _ _ _ => BitVec.allOnes 128
  | .getState32 => 0#128
  | .getState64 => 0#128
  | .fullState => 0#128
  | .next => 0#128
  | .nextU32 => 0#128
  | .nextBounded _ => 0xFFFFFFFF#128
  | .nextRanged _ _ => 0xFFFFFFFFFFFFFFFF#128

/-- The command word whose bits are the number `w` in the numbering of opcode_table.json, which is the command word's
own (bit 131 first in its patterns). Bits from `nbits` up are 0; the port has 132 bits (log entry 10). -/
def tableWord (nbits w : Nat) : CmdWord := BitVec.ofNat 132 (w % 2 ^ nbits)

/-- The instruction the decoder reads from a row's word, none where the opcode is reserved. -/
def decodeTableWord (nbits w : Nat) : Option Instr :=
  match decode (tableWord nbits w) with
  | .instr i => some i
  | .reserved _ => none

end Sys2Proof
end

