-- ==== Sys2Proof/Config.lean ====
section
/-! DEFINITION. What is fixed for the machine: the constants of 00_scope.md rule R5 (log entry 9), and the one
family of free values (log entry 2). -/

namespace Sys2Proof.Config

/-- `MULT`, the multiplier of the seeder. -/
def mult : Word := 0x6C078965#32

/-- `INC`, the increment of the seeder. -/
def inc : Word := 1#32

/-- `SHL_A`, the left shift of `x` in `next_step`. -/
def shlA : Nat := 11

/-- `SHR_B`, the right shift of `w` in `next_step`. -/
def shrB : Nat := 19

/-- `SHR_C`, the right shift of `t` in `next_step`. -/
def shrC : Nat := 8

/-- `DEF_START`, the default `start` of `NEXTRANGED` (assembler only, 30_encoding.md rule R64). -/
def defStart : Word := 0x80000000#32

/-- `DEF_END`, the default `end` of `NEXTRANGED` (assembler only, 30_encoding.md rule R64). -/
def defEnd : Word := 0x7FFFFFFF#32

/-- The value that a state word holds after a reset of the host: unspecified (10_state.md rule R34), so it has no
body here. The argument is the number of free values drawn before it. DESIGN CHOICE (the form), safe: log entry 2. -/
opaque freeWord : Nat → Word

end Sys2Proof.Config
end

