-- ==== Sys2Proof/Machine/State.lean ====
section
/-! DEFINITION. The state of the engine (10_state.md rule R20), its response port (30_encoding.md rules R51, R57, R58),
what the host does next (00_scope.md rules R10, R11), the ways a step stops, and the state after reset (rule R34). -/

namespace Sys2Proof.Machine

/-- The four state words (10_state.md rules R20, R21). -/
structure Words where
  x : Word
  y : Word
  z : Word
  w : Word
  deriving DecidableEq, Repr

/-- The response of an accepted command (30_encoding.md rules R57 to R59). `RES` has a value exactly when the status is
`OK`; for the other statuses it has none (rule R59, log entry 6). -/
inductive Response where
  /-- status `OK`, with `RES` -/
  | ok (res : Res)
  /-- status `DIVZERO`: the division-by-zero fault (60_exceptions.md rule R113) -/
  | divZero
  /-- status `ILLEGAL`: reserved opcode (60_exceptions.md rule R117) -/
  | illegal
  /-- status `UNINIT`: not initialised (60_exceptions.md rule R118) -/
  | uninit
  deriving DecidableEq, Repr

/-- What the host does at one transaction (00_scope.md rule R11, 70_reset_and_hazards.md rule R138). -/
inductive HostAction where
  /-- it presents this word on `cmd` with `cmd_valid = 1` -/
  | command (c : CmdWord)
  /-- it asserts `rst` (70_reset_and_hazards.md rule R130) -/
  | reset
  deriving DecidableEq, Repr

/-- The whole machine: the record of 10_state.md rule R20, the response port, and two fields of the model's own. -/
structure State where
  /-- `x`, `y`, `z`, `w` -/
  regs : Words
  /-- `INIT`: a constructor has run since the last reset (10_state.md rule R28) -/
  init : Bool
  /-- `FAULT`: the division-by-zero fault was raised since the last reset (10_state.md rule R28) -/
  fault : Bool
  /-- the response port after the last step; `none` is `rsp_valid = 0` (log entry 6) -/
  rsp : Option Response
  /-- the MODEL'S OWN: what the host does from now on, next first (log entry 3) -/
  host : List HostAction
  /-- the MODEL'S OWN: how many free values have been drawn (log entry 2) -/
  freeCount : Nat
  deriving DecidableEq, Repr

/-- The ways the machine stops. -/
inductive Fault where
  /-- `FAULT = 1` and the host does not assert reset: the engine accepts no command and "has no step" (60_exceptions.md
  rules R110, R115). Raised by every command and by the step of a halted engine. DEDUCED, safe: log entry 4. -/
  | halted
  deriving DecidableEq, Repr

/-- The ways an instruction has no meaning in the model. -/
inductive Refusal where
  /-- An instruction that has no meaning yet, by its mnemonic. Raised by no arm: all ten are modelled. Safe. -/
  | notModelled (mnemonic : String)
  deriving DecidableEq, Repr

/-- What executing an instruction, or one step, answers. -/
abbrev Result := Host.Outcome State Fault Refusal

/-- The machine right after reset (10_state.md rule R34, 70_reset_and_hazards.md rules R130, R131): `INIT = 0`,
`FAULT = 0`, no response. The words are unspecified there; the model holds 0 in them, which no command reads while
`INIT = 0`. DESIGN CHOICE, unsafe: log entry 1. The host has nothing to do yet: log entry 3. -/
def State.reset : State where
  regs := ⟨0#32, 0#32, 0#32, 0#32⟩
  init := false
  fault := false
  rsp := none
  host := []
  freeCount := 0

end Sys2Proof.Machine
end

