-- ==== Sys2Proof/Machine/Operands.lean ====
section
/-! DEFINITION. The arithmetic on operands (00_scope.md rules R7, R8), the two views of the state (10_state.md rule R22),
the hexadecimal characters (30_encoding.md rule R60, 41_inspect.md rule R82) and the placing of a result in `RES`
(30_encoding.md rule R58). -/

namespace Sys2Proof.Machine

/-- `add32`: sum modulo `2^32` (00_scope.md rule R8). -/
def add32 (a b : Word) : Word := a + b

/-- `sub32`: difference modulo `2^32` (00_scope.md rule R8). -/
def sub32 (a b : Word) : Word := a - b

/-- `mul32`: low word of the product (00_scope.md rule R8). -/
def mul32 (a b : Word) : Word := a * b

/-- `shl32`: logical left shift (00_scope.md rule R8). -/
def shl32 (a : Word) (n : Nat) : Word := a <<< n

/-- `shr32`: logical right shift (00_scope.md rule R8). -/
def shr32 (a : Word) (n : Nat) : Word := a >>> n

/-- `xor32`: bitwise exclusive or (00_scope.md rule R8). -/
def xor32 (a b : Word) : Word := a ^^^ b

/-- `urem32`: unsigned remainder; the spec defines it for `b ≠ 0`, and no rule evaluates it at 0 (00_scope.md
rule R8). -/
def urem32 (a b : Word) : Word := a % b

/-- `signed32`: the `int32` with the same pattern (00_scope.md rule R7). -/
def signed32 (v : Word) : Int :=
  if v.toNat < 2 ^ 31 then (v.toNat : Int) else (v.toNat : Int) - 2 ^ 32

/-- The `u32` pattern of an integer modulo `2^32` (00_scope.md rule R7). -/
def pattern32 (v : Int) : Word := BitVec.ofInt 32 v

/-- The low half `s0`, `x` in its low word and `y` in its high word (10_state.md rule R22). -/
def s0Of (r : Words) : DWord := r.y ++ r.x

/-- The high half `s1`, `z` in its low word and `w` in its high word (10_state.md rule R22). -/
def s1Of (r : Words) : DWord := r.w ++ r.z

/-- `pack32to64` (10_state.md rule R22). -/
def pack32to64 (r : Words) : DWord × DWord := (s0Of r, s1Of r)

/-- `unpack64to32` (10_state.md rule R22). -/
def unpack64to32 (s0 s1 : DWord) : Words where
  x := s0.extractLsb' 0 32
  y := s0.extractLsb' 32 32
  z := s1.extractLsb' 0 32
  w := s1.extractLsb' 32 32

/-- `S`, with `x` least significant and `w` most significant (10_state.md rule R22). -/
def stateVec (r : Words) : QWord := joinWords r.w r.z r.y r.x

/-- `hexchar`, the character code of a hexadecimal digit (41_inspect.md rule R82). -/
def hexchar (n : BitVec 4) : BitVec 8 :=
  if n.toNat ≤ 9 then BitVec.ofNat 8 (0x30 + n.toNat) else BitVec.ofNat 8 (0x41 + (n.toNat - 10))

/-- The `i`-th hexadecimal digit of the state, most significant first (41_inspect.md rule R82). -/
def hexDigit (s : QWord) (i : Nat) : BitVec 4 := s.extractLsb' (124 - 4 * i) 4

/-- The 32 characters of `FullState`, first character first (41_inspect.md rule R82). -/
def fullStateChars (s : QWord) : List (BitVec 8) := (List.range 32).map fun i => hexchar (hexDigit s i)

/-- Characters on the response bus, the first in the most significant byte (30_encoding.md rule R60). -/
def packChars (cs : List (BitVec 8)) : Res :=
  cs.foldl (fun acc c => (acc <<< 8) ||| c.setWidth 256) 0#256

/-- `zext_256`: a result in the low bits of `RES`, zeros above (30_encoding.md rule R58). -/
def resOf {n : Nat} (v : BitVec n) : Res := v.setWidth 256

end Sys2Proof.Machine
end

