-- ==== Sys2Proof/Machine/Flags.lean ====
section
/-! DEFINITION. The two status flags and what shows them: writes of `INIT` and `FAULT` (10_state.md rule R28), the
register `STATUS` (rule R29), status codes and pins (30_encoding.md rules R51, R57, R59). There are no condition codes
(10_state.md rule R28): no arithmetic operation computes a flag. -/

namespace Sys2Proof.Machine

/-- `INIT <- 1` (10_state.md rule R28): done by a constructor only. -/
def State.setInit (s : State) : State := { s with init := true }

/-- `FAULT <- 1` (10_state.md rule R28): done by the division-by-zero fault only. -/
def State.setFault (s : State) : State := { s with fault := true }

/-- Pin `st_init` (10_state.md rule R29). -/
def stInit (s : State) : BitVec 1 := BitVec.ofBool s.init

/-- Pin `st_fault` (10_state.md rule R29). -/
def stFault (s : State) : BitVec 1 := BitVec.ofBool s.fault

/-- `STATUS`: bit 0 is `INIT`, bit 1 is `FAULT` (10_state.md rule R29). -/
def statusReg (s : State) : BitVec 2 := stFault s ++ stInit s

/-- `cmd_ready` between two transactions with `rst = 0`: 1 unless the engine is halted (60_exceptions.md rule R115,
70_reset_and_hazards.md rule R134 items 1 and 4; log entry 7). -/
def cmdReady (s : State) : Bool := !s.fault

/-- The status code `rsp_status` (30_encoding.md rule R57). -/
def Response.code : Response → BitVec 2
  | .ok _ => 0#2
  | .divZero => 1#2
  | .illegal => 2#2
  | .uninit => 3#2

/-- `RES`, where the response has one (30_encoding.md rules R58, R59). -/
def Response.res : Response → Option Res
  | .ok v => some v
  | .divZero => none
  | .illegal => none
  | .uninit => none

/-- `rsp_valid` after a step: an accepted command was answered in it (30_encoding.md rule R51). -/
def rspValid (s : State) : Bool := s.rsp.isSome

/-- `rsp_status`, where a response is valid (30_encoding.md rule R51). -/
def rspStatus (s : State) : Option (BitVec 2) := s.rsp.map Response.code

/-- `rsp_data`, where it has a value (30_encoding.md rules R51, R59). -/
def rspData (s : State) : Option Res := s.rsp.bind Response.res

end Sys2Proof.Machine
end

