-- ==== Sys2Proof/Machine/Ops.lean ====
section
/-! DEFINITION. The named operations over the state that the meanings share: answering, loading the words, the checks of
60_exceptions.md rule R112, taking the division-by-zero fault (rule R113), reset (70_reset_and_hazards.md rule R130), and
taking the host's next action. There is no memory to operate on (20_memory.md rule R40). -/

namespace Sys2Proof.Machine

/-- Deliver a response (00_scope.md rule R9, `respond` and `refuse`). -/
def State.respond (s : State) (r : Response) : State := { s with rsp := some r }

/-- No response in this step: `rsp_valid = 0`. -/
def State.noResponse (s : State) : State := { s with rsp := none }

/-- Write the four words at once (00_scope.md rule R9, 20_memory.md rule R43). -/
def State.loadWords (s : State) (r : Words) : State := { s with regs := r }

/-- What the host does after the action taken now. -/
def State.withHost (s : State) (h : List HostAction) : State := { s with host := h }

/-- Check 1 of 60_exceptions.md rule R112: a halted engine accepts nothing and has no step (rule R115). -/
def accept (s : State) (body : State → State) : Result :=
  if s.fault then .fault .halted else .next (body s)

/-- Check 3 of 60_exceptions.md rule R112: an inspection or generation command needs `INIT = 1`, else it is refused
with `UNINIT` and nothing changes (rule R118). -/
def requireInit (body : State → State) (s : State) : State :=
  if s.init then body s else s.respond .uninit

/-- TAKING THE ONE EXCEPTION (60_exceptions.md rule R113): `FAULT <- 1` and the response `DIVZERO`, which has no `RES`.
Nothing is saved and control goes nowhere; the engine is halted from now on (rule R115). There is no return from it
(rule R116): what ends the halted state is `takeReset`. -/
def State.raiseDivZero (s : State) : State := s.setFault.respond .divZero

/-- Check 2 of 60_exceptions.md rule R112: a reserved opcode is answered `ILLEGAL` and changes nothing (rule R117). -/
def refuseIllegal (s : State) : Result := accept s fun s => s.respond .illegal

/-- What every constructor does with the words it has computed (40_construct.md rules R70 to R73): write them, set
`INIT`, answer `OK` with `RES = 0`. -/
def construct (r : Words) (s : State) : State := ((s.loadWords r).setInit).respond (.ok 0#256)

/-- Four free values for the words, unspecified after a reset (10_state.md rule R34, log entry 2). -/
def freeWords (n : Nat) : Words where
  x := Config.freeWord n
  y := Config.freeWord (n + 1)
  z := Config.freeWord (n + 2)
  w := Config.freeWord (n + 3)

/-- Reset by the host, available in every state, the halted one too (70_reset_and_hazards.md rule R130): both flags are
cleared, no response is pending, the words become unspecified. -/
def State.takeReset (s : State) : State where
  regs := freeWords s.freeCount
  init := false
  fault := false
  rsp := none
  host := s.host
  freeCount := s.freeCount + 4

/-- No command is presented: the engine keeps its state and does nothing (60_exceptions.md rule R127); a halted one has
no step (rule R115). -/
def idle (s : State) : Result := accept s State.noResponse

/-- The host's next action and the state in which the engine meets it; none when the host does nothing
(10_state.md rule R27). -/
def takeAction (s : State) : Option (HostAction × State) :=
  match s.host with
  | [] => none
  | a :: rest => some (a, s.withHost rest)

/-- The host presents this word next, before whatever else it was to do (log entry 3). -/
def State.present (s : State) (c : CmdWord) : State := s.withHost (.command c :: s.host)

end Sys2Proof.Machine
end

