-- ==== Sys2Proof/Machine/Advance.lean ====
section
/-! DEFINITION. The step function and the two raw generation commands (42_advance.md). -/

namespace Sys2Proof.Machine

/-- `next_step`, defined once for the whole spec (42_advance.md rule R90): every right-hand side uses the old words. -/
def nextStep (r : Words) : Words :=
  let t := xor32 r.x (shl32 r.x Config.shlA)
  { x := r.y
    y := r.z
    z := r.w
    w := xor32 (xor32 (xor32 r.w (shr32 r.w Config.shrB)) t) (shr32 t Config.shrC) }

/-- `(x, y, z, w) <- next_step(x, y, z, w)` (42_advance.md rule R90). -/
def State.advance (s : State) : State := s.loadWords (nextStep s.regs)

/-- A generation command: exactly one step, committed first, then `output` on the state it leaves (42_advance.md rules
R90, R91; 43_bounded.md rules R100, R101). -/
def generate (output : State → State) (s : State) : Result :=
  accept s (requireInit fun s => output s.advance)

/-- `NEXT`: the new `w` (42_advance.md rule R90). -/
def execNext (s : State) : Result := generate (fun s => s.respond (.ok (resOf s.regs.w))) s

/-- `NEXTU32`: the new `w` cast to `int32` and back (42_advance.md rule R91). -/
def execNextU32 (s : State) : Result :=
  generate (fun s => s.respond (.ok (resOf (pattern32 (signed32 s.regs.w))))) s

end Sys2Proof.Machine
end

