-- ==== Sys2Proof/Machine/Bounded.lean ====
section
/-! DEFINITION. The bounded generation commands (43_bounded.md). Both may take the division-by-zero fault, after the step
has been committed. -/

namespace Sys2Proof.Machine

/-- `NEXTBOUNDED max`: the new `w` modulo `max`; `max = 0` faults (43_bounded.md rule R100). -/
def execNextBounded (max : Word) (s : State) : Result :=
  generate (fun s => if max = 0#32 then s.raiseDivZero else s.respond (.ok (resOf (urem32 s.regs.w max)))) s

/-- `NEXTRANGED start, end`: `start` plus the new `w` modulo `delta = end - start`; `delta = 0` faults (43_bounded.md
rule R101). -/
def execNextRanged (start stop : Word) (s : State) : Result :=
  let delta := sub32 stop start
  generate (fun s =>
    if delta = 0#32 then s.raiseDivZero
    else s.respond (.ok (resOf (add32 start (urem32 s.regs.w delta))))) s

end Sys2Proof.Machine
end

