-- ==== Sys2Proof/Machine/Construct.lean ====
section
/-! DEFINITION. The construction commands (40_construct.md). None is refused with `UNINIT` (rule R73). -/

namespace Sys2Proof.Machine

/-- One step of the seeder's recurrence, `v -> MULT * v + INC` (40_construct.md rule R70). -/
def lcg (v : Word) : Word := add32 (mul32 Config.mult v) Config.inc

/-- The state that a seed expands to: the chain is sequential (40_construct.md rule R70). -/
def seedWords (seed : Word) : Words where
  x := seed
  y := lcg seed
  z := lcg (lcg seed)
  w := lcg (lcg (lcg seed))

/-- `FROMSEED seed` (40_construct.md rule R70). -/
def execFromSeed (seed : Word) (s : State) : Result := accept s (construct (seedWords seed))

/-- `FROMSTATE64 s0, s1` (40_construct.md rule R71). -/
def execFromState64 (s0 s1 : DWord) (s : State) : Result := accept s (construct (unpack64to32 s0 s1))

/-- `FROMSTATE32 x, y, z, w` (40_construct.md rule R72). -/
def execFromState32 (x y z w : Word) (s : State) : Result := accept s (construct ⟨x, y, z, w⟩)

end Sys2Proof.Machine
end

