-- ==== Sys2Proof/Machine/Inspect.lean ====
section
/-! DEFINITION. The inspection commands (41_inspect.md): they read the state and change nothing but the response. -/

namespace Sys2Proof.Machine

/-- Answer `OK` with a value read from the words, once the engine is accepted as running and initialised. -/
def inspect (value : Words → Res) (s : State) : Result :=
  accept s (requireInit fun s => s.respond (.ok (value s.regs)))

/-- `GETSTATE32`: `{w, z, y, x}` (41_inspect.md rule R80). -/
def execGetState32 (s : State) : Result := inspect (fun r => resOf (stateVec r)) s

/-- `GETSTATE64`: `{s1, s0}` (41_inspect.md rule R81). -/
def execGetState64 (s : State) : Result :=
  inspect (fun r => resOf ((pack32to64 r).2 ++ (pack32to64 r).1)) s

/-- `FULLSTATE`: the 32 hexadecimal characters of the state (41_inspect.md rule R82). -/
def execFullState (s : State) : Result := inspect (fun r => packChars (fullStateChars (stateVec r))) s

end Sys2Proof.Machine
end

