-- ==== Sys2Proof/Machine/Dispatch.lean ====
section
/-! DEFINITION. One arm for each instruction: its meaning (30_encoding.md rule R55). -/

namespace Sys2Proof.Machine

def exec (i : Instr) (s : State) : Host.Outcome State Fault Refusal :=
  match i with
  | .fromSeed seed => Sys2Proof.Machine.execFromSeed seed s
  | .fromState64 s0 s1 => Sys2Proof.Machine.execFromState64 s0 s1 s
  | .fromState32 x y z w => Sys2Proof.Machine.execFromState32 x y z w s
  | .getState32 => Sys2Proof.Machine.execGetState32 s
  | .getState64 => Sys2Proof.Machine.execGetState64 s
  | .fullState => Sys2Proof.Machine.execFullState s
  | .next => Sys2Proof.Machine.execNext s
  | .nextU32 => Sys2Proof.Machine.execNextU32 s
  | .nextBounded max => Sys2Proof.Machine.execNextBounded max s
  | .nextRanged start stop => Sys2Proof.Machine.execNextRanged start stop s

end Sys2Proof.Machine
end

