-- ==== Sys2Proof/Machine/Step.lean ====
section
/-! DEFINITION. One transaction (00_scope.md rule R11): the host's next action, which is a command (60_exceptions.md
rule R112), a reset (70_reset_and_hazards.md rule R130) or nothing (60_exceptions.md rule R127). -/

namespace Sys2Proof.Machine

/-- The engine meets the command word `c` (60_exceptions.md rule R112): a reserved opcode is refused, an instruction is
executed. A halted engine accepts neither: `refuseIllegal` and every meaning check that first. -/
def runCommand (c : CmdWord) (s : State) : Host.Outcome State Fault Refusal :=
  match decode c with
  | .instr i => exec i s
  | .reserved _ => refuseIllegal s

/-- One step of the machine. -/
def step (s : State) : Host.Outcome State Fault Refusal :=
  match takeAction s with
  | some (.command c, s') => runCommand c s'
  | some (.reset, s') => .next s'.takeReset
  | none => idle s

/-- The state in which the host presents this word next (log entry 3). -/
def State.withFetchWord (s : State) (nbits w : Nat) : State := s.present (tableWord nbits w)

end Sys2Proof.Machine
end

