-- ==== Sys2Proof/Machine/Assembler.lean ====
section
/-! DEFINITION. The assembler of 30_encoding.md rules R63 and R64: from a written line to a command word. It is the
host's tool; no step of the machine uses it. What the rules leave open of the written form is log entry 11. -/

namespace Sys2Proof.Asm

/-- A number as a bit pattern, `value mod 2^n` (30_encoding.md rule R63). -/
def Operand.pattern (n : Nat) : Operand → BitVec n
  | .num v => BitVec.ofInt n v
  | .star => 0

/-- An operand of `NEXTRANGED`: what is written, or the default where nothing or `*` is (30_encoding.md rule R64). -/
def rangedOperand (default : Word) : Option Operand → Word
  | some (.num v) => BitVec.ofInt 32 v
  | some .star => default
  | none => default

/-- The instruction of a well-formed line (30_encoding.md rules R63, R64). -/
def instrOf (m : Mnemonic) (os : List Operand) : Instr :=
  let word (k : Nat) : Word := (os.getD k .star).pattern 32
  let dword (k : Nat) : DWord := (os.getD k .star).pattern 64
  match m with
  | .FROMSEED => .fromSeed (word 0)
  | .FROMSTATE64 => .fromState64 (dword 0) (dword 1)
  | .FROMSTATE32 => .fromState32 (word 0) (word 1) (word 2) (word 3)
  | .GETSTATE32 => .getState32
  | .GETSTATE64 => .getState64
  | .FULLSTATE => .fullState
  | .NEXT => .next
  | .NEXTU32 => .nextU32
  | .NEXTBOUNDED => .nextBounded (word 0)
  | .NEXTRANGED => .nextRanged (rangedOperand Config.defStart os[0]?) (rangedOperand Config.defEnd os[1]?)

/-- The command word of a line; none is an assembly error, not a command (30_encoding.md rule R63). -/
def assemble (l : Line) : Option CmdWord :=
  if l.wf then
    match l with
    | .word c => some c
    | .op m os => some (encode (instrOf m os))
  else none

/-- A space or a tab (DESIGN CHOICE: log entry 11). -/
def isBlank (c : Char) : Bool := c == ' ' || c == '\t'

/-- The characters without blanks at either end. -/
def trim (cs : List Char) : List Char :=
  ((cs.dropWhile isBlank).reverse.dropWhile isBlank).reverse

/-- The pieces between commas. -/
def splitCommas : List Char → List (List Char)
  | [] => [[]]
  | c :: cs =>
    if c == ',' then [] :: splitCommas cs
    else match splitCommas cs with
      | [] => [[c]]
      | h :: t => (c :: h) :: t

/-- The value of a digit in a base up to 16, capitals or small letters (DESIGN CHOICE: log entry 11). -/
def digit? (base : Nat) (c : Char) : Option Nat :=
  let n := c.toNat
  let v := if 0x30 ≤ n ∧ n ≤ 0x39 then n - 0x30
    else if 0x41 ≤ n ∧ n ≤ 0x46 then n - 0x41 + 10
    else if 0x61 ≤ n ∧ n ≤ 0x66 then n - 0x61 + 10
    else base
  if v < base then some v else none

/-- Digits read on from a value. -/
def digitsFrom? (base : Nat) : Nat → List Char → Option Nat
  | acc, [] => some acc
  | acc, c :: cs => (digit? base c).bind fun d => digitsFrom? base (acc * base + d) cs

/-- At least one digit. -/
def digits? (base : Nat) (cs : List Char) : Option Nat :=
  if cs.isEmpty then none else digitsFrom? base 0 cs

/-- `number ::= ["-"] decimal | "0x" hexadecimal`, `operand ::= number | "*"` (30_encoding.md rule R63). -/
def operand? (cs : List Char) : Option Operand :=
  match cs with
  | ['*'] => some .star
  | '-' :: ds => (digits? 10 ds).map fun n => .num (-(n : Int))
  | '0' :: 'x' :: ds => (digits? 16 ds).map fun n => .num (n : Int)
  | ds => (digits? 10 ds).map fun n => .num (n : Int)

/-- The code of a letter with small letters made capital: mnemonics are not case-sensitive (30_encoding.md rule R63). -/
def upperCode (c : Char) : Nat :=
  let n := c.toNat
  if 0x61 ≤ n ∧ n ≤ 0x7A then n - 0x20 else n

/-- The written forms of the mnemonics (30_encoding.md rule R63). -/
def mnemonicNames : List (List Char × Mnemonic) :=
  [(['F','R','O','M','S','E','E','D'], .FROMSEED),
   (['F','R','O','M','S','T','A','T','E','6','4'], .FROMSTATE64),
   (['F','R','O','M','S','T','A','T','E','3','2'], .FROMSTATE32),
   (['G','E','T','S','T','A','T','E','3','2'], .GETSTATE32),
   (['G','E','T','S','T','A','T','E','6','4'], .GETSTATE64),
   (['F','U','L','L','S','T','A','T','E'], .FULLSTATE),
   (['N','E','X','T'], .NEXT),
   (['N','E','X','T','U','3','2'], .NEXTU32),
   (['N','E','X','T','B','O','U','N','D','E','D'], .NEXTBOUNDED),
   (['N','E','X','T','R','A','N','G','E','D'], .NEXTRANGED)]

/-- The mnemonic that is written. -/
def mnemonic? (cs : List Char) : Option Mnemonic :=
  (mnemonicNames.find? fun e => e.1.map Char.toNat == cs.map upperCode).map Prod.snd

/-- All operands of a line, none where one of them is not an operand. -/
def operands? : List (List Char) → Option (List Operand)
  | [] => some []
  | p :: ps => (operand? (trim p)).bind fun o => (operands? ps).map fun os => o :: os

/-- The operand of `.word`: `0x` and exactly 33 hexadecimal digits (30_encoding.md rule R63). -/
def rawWord? (cs : List Char) : Option CmdWord :=
  match cs with
  | '0' :: 'x' :: ds => if ds.length == 33 then (digits? 16 ds).map (BitVec.ofNat 132) else none
  | _ => none

/-- A written line, its comment cut off (30_encoding.md rule R63). The grammar names no blanks: that one is needed between a
mnemonic and its first operand, and that they are allowed in any number there, after `.word`, at both ends of
the line and around each operand, is the model's choice. The grammar gives a comment to a mnemonic line only: that it is cut off a `.word` line too is the
model's choice. DESIGN CHOICE, unsafe for claims about such text only: log entry 11. -/
def line? (cs : List Char) : Option Line :=
  let text := trim (cs.takeWhile fun c => c != ';')
  let head := text.takeWhile fun c => !isBlank c
  let rest := trim (text.dropWhile fun c => !isBlank c)
  if head == ['.','w','o','r','d'] then (rawWord? rest).map .word
  else (mnemonic? head).bind fun m =>
    if rest.isEmpty then some (.op m [])
    else (operands? (splitCommas rest)).map fun os => .op m os

/-- From the characters of a line to its command word (30_encoding.md rules R63, R64). -/
def assembleText (cs : List Char) : Option CmdWord := (line? cs).bind assemble

end Sys2Proof.Asm
end

