-- ==== Sys2Proof/Safety.lean ====
section
/-! DEFINITION. The terms that claims use: the classes of commands (00_scope.md rule R12), the invariant of the state
(10_state.md rule R28), agreement of two engines (70_reset_and_hazards.md rule R139), the inverse of the step
(42_advance.md rule R95), runs and their responses (70_reset_and_hazards.md rule R137). -/

namespace Sys2Proof

/-- The commands that write all four words without reading them (00_scope.md rule R12). -/
def Instr.isConstructor : Instr → Bool
  | .fromSeed _ => true
  | .fromState64 _ _ => true
  | .fromState32 _ _ _ _ => true
  | .getState32 => false
  | .getState64 => false
  | .fullState => false
  | .next => false
  | .nextU32 => false
  | .nextBounded _ => false
  | .nextRanged _ _ => false

/-- The commands that read the state and change nothing (00_scope.md rule R12). -/
def Instr.isInspection : Instr → Bool
  | .fromSeed _ => false
  | .fromState64 _ _ => false
  | .fromState32 _ _ _ _ => false
  | .getState32 => true
  | .getState64 => true
  | .fullState => true
  | .next => false
  | .nextU32 => false
  | .nextBounded _ => false
  | .nextRanged _ _ => false

/-- The commands that advance the state by exactly one step (00_scope.md rule R12). -/
def Instr.isGeneration : Instr → Bool
  | .fromSeed _ => false
  | .fromState64 _ _ => false
  | .fromState32 _ _ _ _ => false
  | .getState32 => false
  | .getState64 => false
  | .fullState => false
  | .next => true
  | .nextU32 => true
  | .nextBounded _ => true
  | .nextRanged _ _ => true

/-- The operands on which a command divides by zero (60_exceptions.md rule R111):
`NEXTBOUNDED` with `max = 0`, `NEXTRANGED` with equal operands. -/
def Instr.dividesByZero : Instr → Bool
  | .fromSeed _ => false
  | .fromState64 _ _ => false
  | .fromState32 _ _ _ _ => false
  | .getState32 => false
  | .getState64 => false
  | .fullState => false
  | .next => false
  | .nextU32 => false
  | .nextBounded max => max == 0#32
  | .nextRanged start stop => start == stop

namespace Machine

/-- What holds in every reachable state (10_state.md rule R28, 60_exceptions.md rules R113, R118): `FAULT` only with
`INIT`; the engine is halted exactly when its last response was `DIVZERO`; a value was answered only by an initialised
engine, `UNINIT` only by one that is not. -/
def State.Inv (s : State) : Prop :=
  (s.fault = true → s.init = true) ∧
  (s.fault = true ↔ s.rsp = some .divZero) ∧
  (∀ v, s.rsp = some (.ok v) → s.init = true) ∧
  (s.rsp = some .uninit → s.init = false)

/-- Two engines that a host cannot tell apart: the same flags, response and coming actions, and, once initialised, the
same words. Words of an engine with `INIT = 0` are unspecified and may differ (10_state.md rule R34). -/
def State.Agree (s t : State) : Prop :=
  s.init = t.init ∧ s.fault = t.fault ∧ s.rsp = t.rsp ∧ s.host = t.host ∧ (s.init = true → s.regs = t.regs)

/-- The same outcome, up to agreement of the next states. -/
def Result.Agree : Result → Result → Prop
  | .next s, .next t => State.Agree s t
  | .fault a, .fault b => a = b
  | .refused a, .refused b => a = b
  | .next _, .fault _ => False
  | .next _, .refused _ => False
  | .fault _, .next _ => False
  | .fault _, .refused _ => False
  | .refused _, .next _ => False
  | .refused _, .fault _ => False

/-- The state before a step, from the state after it (42_advance.md rule R95). No command performs it. -/
def prevStep (r : Words) : Words :=
  let w0 := r.z
  let u := r.w ^^^ w0 ^^^ (w0 >>> 19)
  let t := u ^^^ (u >>> 8) ^^^ (u >>> 16) ^^^ (u >>> 24)
  { x := t ^^^ (t <<< 11) ^^^ (t <<< 22), y := r.x, z := r.y, w := w0 }

/-- Bitwise exclusive or of two states as 128-bit vectors (42_advance.md rule R94). -/
def Words.xor (a b : Words) : Words where
  x := a.x ^^^ b.x
  y := a.y ^^^ b.y
  z := a.z ^^^ b.z
  w := a.w ^^^ b.w

/-- The words after `k` steps. -/
def stepsFrom (r : Words) : Nat → Words
  | 0 => r
  | k + 1 => nextStep (stepsFrom r k)

/-- What at most `k` transactions produce: the sequence of their responses (70_reset_and_hazards.md rule R137). Where the
host's actions hold no reset, the transactions belong to one run of rule R137. A reset in the middle makes them two runs,
of which that rule says nothing together; going on across it, and joining the responses of both in one list, is the
model's choice. DESIGN CHOICE, safe: log entry 12. -/
def runResponses : Nat → State → List Response
  | 0, _ => []
  | k + 1, s =>
    match step s with
    | .next t => t.rsp.toList ++ runResponses k t
    | .fault _ => []
    | .refused _ => []

/-- A run has ended normally: the host has nothing more to present and `FAULT = 0` (70_reset_and_hazards.md rule
R137). -/
def State.endedNormally (s : State) : Bool := s.host.isEmpty && !s.fault

end Machine
end Sys2Proof
end

