-- ==== Sys2Proof/Certificates/Slice0/Obligations.lean ====
section
/-! DEFINITION. The statements for the provers, in the order of the spec's files. Each docstring names the rule it rests
on. The engine has no memory (20_memory.md rule R40), so no frame speaks of one. -/

open Sys2Proof Sys2Proof.Machine

/-! ## Arithmetic, views, decoding -/

/-- 00_scope.md rule R8: each primitive as integer arithmetic on `[0, 2^32)`; the exclusive or bit by bit; the
remainder for `b ≠ 0`. -/
def Obligations.PrimitivesAreModularArithmetic : Prop :=
  ∀ a b : Word,
    (add32 a b).toNat = (a.toNat + b.toNat) % 2 ^ 32 ∧
    (sub32 a b).toNat = (if b.toNat ≤ a.toNat then a.toNat - b.toNat else a.toNat + 2 ^ 32 - b.toNat) ∧
    (mul32 a b).toNat = (a.toNat * b.toNat) % 2 ^ 32 ∧
    (∀ n, n ≤ 31 → (shl32 a n).toNat = (a.toNat * 2 ^ n) % 2 ^ 32) ∧
    (∀ n, n ≤ 31 → (shr32 a n).toNat = a.toNat / 2 ^ n) ∧
    (∀ k, (xor32 a b).getLsbD k = (a.getLsbD k ^^ b.getLsbD k)) ∧
    (b ≠ 0#32 →
      (urem32 a b).toNat = a.toNat - b.toNat * (a.toNat / b.toNat) ∧ (urem32 a b).toNat < b.toNat)

/-- 10_state.md rules R22, R23: `s0`, `s1` are the widened words joined by a shift by 32, `S` is both views, and the two
conversions are mutual inverses. -/
def Obligations.ViewsAreMutualInverses : Prop :=
  (∀ r : Words,
    (pack32to64 r).1 = (r.x.setWidth 64 ||| (r.y.setWidth 64 <<< 32)) ∧
    (pack32to64 r).2 = (r.z.setWidth 64 ||| (r.w.setWidth 64 <<< 32)) ∧
    stateVec r = (pack32to64 r).2 ++ (pack32to64 r).1 ∧
    unpack64to32 (pack32to64 r).1 (pack32to64 r).2 = r) ∧
  (∀ s0 s1 : DWord, pack32to64 (unpack64to32 s0 s1) = (s0, s1))

/-- 30_encoding.md rules R55, R56, R62: every word is one of the ten instructions with the word's own opcode, or its
opcode is one of the six reserved ones. -/
def Obligations.EveryWordDecodesToOneThing : Prop :=
  ∀ c : CmdWord,
    (c.extractLsb' 128 4 ∈ [0x0#4, 0x7#4, 0xC#4, 0xD#4, 0xE#4, 0xF#4] ∧
      decode c = .reserved (c.extractLsb' 128 4)) ∨
    (c.extractLsb' 128 4 ∉ [0x0#4, 0x7#4, 0xC#4, 0xD#4, 0xE#4, 0xF#4] ∧
      ∃ i, decode c = .instr i ∧ opcode i = c.extractLsb' 128 4)

/-- 30_encoding.md rule R54: the bits of `ARG` that the format does not name (all in format `N`, from 32 up in format `A`,
from 64 up in format `AB`) affect neither state, response nor status. -/
def Obligations.UnnamedOperandBitsAreIgnored : Prop :=
  ∀ (c d : CmdWord) (s : State), c.extractLsb' 128 4 = d.extractLsb' 128 4 →
    (c.extractLsb' 128 4 ∈ [0x4#4, 0x5#4, 0x6#4, 0x8#4, 0x9#4] ∨
      (c.extractLsb' 128 4 ∈ [0x1#4, 0xA#4] ∧ c.extractLsb' 0 32 = d.extractLsb' 0 32) ∨
      (c.extractLsb' 128 4 = 0xB#4 ∧ c.extractLsb' 0 64 = d.extractLsb' 0 64)) →
    runCommand c s = runCommand d s

/-- 30_encoding.md rule R65: the worked encodings, in both directions. -/
def Obligations.WorkedEncodingsAgree : Prop :=
  ∀ p ∈ [
      (Instr.fromSeed 1#32, 0x100000000000000000000000000000001#132),
      (.fromSeed 0xDEADBEEF#32, 0x1000000000000000000000000DEADBEEF#132),
      (.fromState64 0x6C07896600000001#64 0xDBFFE6DC714ACB3F#64, 0x2DBFFE6DC714ACB3F6C07896600000001#132),
      (.fromState32 0x00000001#32 0x6C078966#32 0x714ACB3F#32 0xDBFFE6DC#32,
        0x3DBFFE6DC714ACB3F6C07896600000001#132),
      (.getState32, 0x400000000000000000000000000000000#132),
      (.getState64, 0x500000000000000000000000000000000#132),
      (.fullState, 0x600000000000000000000000000000000#132),
      (.next, 0x800000000000000000000000000000000#132),
      (.nextU32, 0x900000000000000000000000000000000#132),
      (.nextBounded 6#32, 0xA00000000000000000000000000000006#132),
      (.nextRanged 0xFFFFFFFB#32 5#32, 0xB000000000000000000000005FFFFFFFB#132),
      (.nextRanged 0x80000000#32 0x7FFFFFFF#32, 0xB00000000000000007FFFFFFF80000000#132)],
    encode p.1 = p.2 ∧ decode p.2 = .instr p.1

/-- 30_encoding.md rules R52, R53, R55: decoding the encoding of any instruction gives it back, with every operand at
every value. -/
def Obligations.DecodeOfEncodeIsIdentity : Prop :=
  ∀ i : Instr, decode (encode i) = .instr i

/-- 30_encoding.md rules R53, R54: encoding what a word decodes to gives the word with exactly its ignored bits
cleared. -/
def Obligations.EncodeOfDecodeClearsIgnoredBits : Prop :=
  ∀ (c : CmdWord) (i : Instr), decode c = .instr i → encode i = c &&& (0xF#4 ++ operandMask i)

/-- 30_encoding.md rule R64: the five written forms of `NEXTRANGED` with defaults, for every operand pattern. -/
def Obligations.RangedDefaultsAssemble : Prop :=
  Asm.assemble (.op .NEXTRANGED []) = some (encode (.nextRanged 0x80000000#32 0x7FFFFFFF#32)) ∧
  Asm.assemble (.op .NEXTRANGED [.star, .star]) = some (encode (.nextRanged 0x80000000#32 0x7FFFFFFF#32)) ∧
  ∀ v : Word,
    Asm.assemble (.op .NEXTRANGED [.num v.toNat]) = some (encode (.nextRanged v 0x7FFFFFFF#32)) ∧
    Asm.assemble (.op .NEXTRANGED [.num v.toNat, .star]) = some (encode (.nextRanged v 0x7FFFFFFF#32)) ∧
    Asm.assemble (.op .NEXTRANGED [.star, .num v.toNat]) = some (encode (.nextRanged 0x80000000#32 v))

/-! ## Reset, checks, stops -/

/-- 10_state.md rule R34, 70_reset_and_hazards.md rule R131: after reset both flags are 0, no response is pending, and the
engine is ready. Nothing is said of the words (log entry 1). -/
def Obligations.ResetLeavesFlagsClear : Prop :=
  State.reset.init = false ∧ State.reset.fault = false ∧ rspValid State.reset = false ∧
    statusReg State.reset = 0#2 ∧ cmdReady State.reset = true

/-- 70_reset_and_hazards.md rule R130: the host may reset in every state, the halted one too; the flags are cleared, no
response is pending. That the words become free values, and the counter of them, is the model's (log entry 2). -/
def Obligations.ResetActionClearsFlags : Prop :=
  ∀ (s : State) (rest : List HostAction), s.host = .reset :: rest →
    step s = .next
      { regs := ⟨Config.freeWord s.freeCount, Config.freeWord (s.freeCount + 1), Config.freeWord (s.freeCount + 2),
          Config.freeWord (s.freeCount + 3)⟩
        init := false, fault := false, rsp := none, host := rest, freeCount := s.freeCount + 4 }

/-- 00_scope.md rule R11, 60_exceptions.md rule R112: when the word the host presents decodes to an instruction, the step
is `exec` of it on the state in which the host has gone on to its next action. -/
def Obligations.StepRunsTheDecodedInstruction : Prop :=
  ∀ (s : State) (c : CmdWord) (rest : List HostAction) (i : Instr),
    s.host = .command c :: rest → decode c = .instr i →
    i.wf = true ∧ step s = exec i { s with host := rest }

/-- 60_exceptions.md rule R117: a reserved opcode is accepted, changes nothing, and is answered `ILLEGAL` (2) with no
`RES`, whatever `ARG` and `INIT` are; the engine stays ready. -/
def Obligations.ReservedOpcodeIsIllegal : Prop :=
  (∀ (s : State) (c : CmdWord) (rest : List HostAction),
    s.host = .command c :: rest → s.fault = false →
    c.extractLsb' 128 4 ∈ [0x0#4, 0x7#4, 0xC#4, 0xD#4, 0xE#4, 0xF#4] →
    step s = .next { s with host := rest, rsp := some .illegal } ∧
      cmdReady { s with host := rest, rsp := some .illegal } = true) ∧
  Response.illegal.code = 2#2 ∧ Response.illegal.res = none

/-- 60_exceptions.md rule R118: while `INIT = 0` every inspection and generation command changes nothing and is answered
`UNINIT` (3) with no `RES`, and the engine stays ready; a constructor never is. -/
def Obligations.UninitialisedCommandsAreRefused : Prop :=
  (∀ (i : Instr) (s : State), (i.isInspection || i.isGeneration) = true → s.fault = false → s.init = false →
    exec i s = .next { s with rsp := some .uninit } ∧ cmdReady { s with rsp := some .uninit } = true) ∧
  Response.uninit.code = 3#2 ∧ Response.uninit.res = none ∧
  (∀ (i : Instr) (s : State), i.isConstructor = true → s.fault = false →
    ∃ t, exec i s = .next t ∧ t.rsp ≠ some .uninit)

/-- 60_exceptions.md rule R115: while `FAULT = 1` no command is accepted and the engine has no step; only reset ends it.
That having no step is the fault `halted` is the model's (log entry 4). -/
def Obligations.HaltedEngineHasOnlyReset : Prop :=
  ∀ s : State, s.fault = true →
    cmdReady s = false ∧
    (∀ i, exec i s = .fault .halted) ∧
    ((∀ rest, s.host ≠ .reset :: rest) → step s = .fault .halted) ∧
    (∀ rest, s.host = .reset :: rest → ∃ t, step s = .next t ∧ t.fault = false ∧ t.init = false)

/-- 60_exceptions.md rule R127: an engine to which nothing is presented keeps its state. That this is a step without a
response is the model's (log entry 5). -/
def Obligations.IdleEngineKeepsItsState : Prop :=
  ∀ s : State, s.host = [] → s.fault = false → step s = .next { s with rsp := none }

/-- 60_exceptions.md rules R110, R112: the outcome of a presented word, in the order of the checks: halted, reserved
opcode, `INIT = 0`, then the body, which divides by zero exactly on the operands of rule R111. The halted outcome is log
entry 4. -/
def Obligations.ChecksApplyInOrder : Prop :=
  ∀ (s : State) (c : CmdWord) (rest : List HostAction), s.host = .command c :: rest →
    if s.fault then step s = .fault .halted
    else ∃ t, step s = .next t ∧ t.host = rest ∧
      match decode c with
      | .reserved _ => t.rsp = some .illegal ∧ t.fault = false
      | .instr i =>
        if i.isConstructor = false ∧ s.init = false then t.rsp = some .uninit ∧ t.fault = false
        else if i.dividesByZero then t.rsp = some .divZero ∧ t.fault = true
        else (∃ v, t.rsp = some (.ok v)) ∧ t.fault = false

/-- 70_reset_and_hazards.md rules R134, R136, R138: every accepted command gets exactly one response, at once, and the host
goes on to its next action. -/
def Obligations.EveryAcceptedCommandIsAnswered : Prop :=
  ∀ (s : State) (c : CmdWord) (rest : List HostAction), s.host = .command c :: rest → cmdReady s = true →
    ∃ t r, step s = .next t ∧ t.rsp = some r ∧ t.host = rest

/-- 30_encoding.md rule R57: the four status codes, and `RES` has a value exactly with `OK` (rule R59). -/
def Obligations.StatusCodesAndResults : Prop :=
  (∀ v, (Response.ok v).code = 0#2) ∧ Response.divZero.code = 1#2 ∧ Response.illegal.code = 2#2 ∧
    Response.uninit.code = 3#2 ∧ ∀ r : Response, r.res.isSome = true ↔ r.code = 0#2

/-- 10_state.md rule R29: bit 0 of `STATUS` and pin `st_init` are `INIT`, bit 1 and `st_fault` are `FAULT`. -/
def Obligations.StatusShowsTheFlags : Prop :=
  ∀ s : State, (statusReg s).getLsbD 0 = s.init ∧ (statusReg s).getLsbD 1 = s.fault ∧
    (stInit s).getLsbD 0 = s.init ∧ (stFault s).getLsbD 0 = s.fault

/-! ## Construction -/

/-- 40_construct.md rule R70: encoding, operand, and the whole effect of `FROMSEED` on an engine that is not halted. -/
def Obligations.FromSeedExpandsTheSeed : Prop :=
  (∀ c : CmdWord, c.extractLsb' 128 4 = 0x1#4 → decode c = .instr (.fromSeed (c.extractLsb' 0 32))) ∧
  ∀ (seed : Word) (s : State), s.fault = false →
    let y := 0x6C078965#32 * seed + 1#32
    let z := 0x6C078965#32 * y + 1#32
    let w := 0x6C078965#32 * z + 1#32
    exec (.fromSeed seed) s = .next { s with regs := ⟨seed, y, z, w⟩, init := true, rsp := some (.ok 0#256) }

/-- 40_construct.md rule R71: encoding, operands, and the whole effect of `FROMSTATE64` on an engine that is not
halted. -/
def Obligations.FromState64LoadsTheHalves : Prop :=
  (∀ c : CmdWord, c.extractLsb' 128 4 = 0x2#4 →
    decode c = .instr (.fromState64 (c.extractLsb' 0 64) (c.extractLsb' 64 64))) ∧
  ∀ (s0 s1 : DWord) (s : State), s.fault = false →
    exec (.fromState64 s0 s1) s = .next
      { s with
        regs := ⟨s0.extractLsb' 0 32, s0.extractLsb' 32 32, s1.extractLsb' 0 32, s1.extractLsb' 32 32⟩
        init := true, rsp := some (.ok 0#256) }

/-- 40_construct.md rule R72: encoding, operands, and the whole effect of `FROMSTATE32` on an engine that is not
halted. -/
def Obligations.FromState32LoadsTheWords : Prop :=
  (∀ c : CmdWord, c.extractLsb' 128 4 = 0x3#4 →
    decode c = .instr (.fromState32 (c.extractLsb' 0 32) (c.extractLsb' 32 32) (c.extractLsb' 64 32)
      (c.extractLsb' 96 32))) ∧
  ∀ (x y z w : Word) (s : State), s.fault = false →
    exec (.fromState32 x y z w) s = .next { s with regs := ⟨x, y, z, w⟩, init := true, rsp := some (.ok 0#256) }

/-- 40_construct.md rule R72: a `FROMSTATE32` word and a `FROMSTATE64` word with the same `ARG` have the same effect and
response. -/
def Obligations.BothStateLoadsAgreeOnArg : Prop :=
  ∀ (arg : QWord) (s : State), runCommand (0x3#4 ++ arg) s = runCommand (0x2#4 ++ arg) s

/-- 40_construct.md rule R73 (a), (b), 20_memory.md rule R43: what a constructor leaves depends on its operands alone,
whatever the engine held before, and issuing it again changes nothing. -/
def Obligations.ConstructorForgetsThePast : Prop :=
  ∀ (i : Instr) (s u : State), i.isConstructor = true → s.fault = false → u.fault = false →
    ∃ s' u', exec i s = .next s' ∧ exec i u = .next u' ∧ s'.regs = u'.regs ∧ s'.init = true ∧ u'.init = true ∧
      s'.rsp = u'.rsp ∧ exec i s' = .next s'

/-- 40_construct.md rule R70, corner cases: the seeder is injective and never gives the all-zero state. -/
def Obligations.SeederIsInjectiveAndNeverZero : Prop :=
  (∀ a b : Word, seedWords a = seedWords b → a = b) ∧ ∀ a : Word, seedWords a ≠ ⟨0#32, 0#32, 0#32, 0#32⟩

/-! ## Inspection -/

/-- 41_inspect.md rule R80: encoding and the whole effect of `GETSTATE32`. -/
def Obligations.GetState32ReadsTheWords : Prop :=
  (∀ c : CmdWord, c.extractLsb' 128 4 = 0x4#4 → decode c = .instr .getState32) ∧
  ∀ s : State, s.fault = false →
    exec .getState32 s = .next
      { s with rsp := some (if s.init then
          .ok ((s.regs.w ++ (s.regs.z ++ (s.regs.y ++ s.regs.x)) : BitVec 128).setWidth 256) else .uninit) }

/-- 41_inspect.md rule R81: encoding and the whole effect of `GETSTATE64`. -/
def Obligations.GetState64ReadsTheHalves : Prop :=
  (∀ c : CmdWord, c.extractLsb' 128 4 = 0x5#4 → decode c = .instr .getState64) ∧
  ∀ s : State, s.fault = false →
    exec .getState64 s = .next
      { s with rsp := some (if s.init then
          .ok (((s.regs.w ++ s.regs.z : BitVec 64) ++ (s.regs.y ++ s.regs.x : BitVec 64) : BitVec 128).setWidth 256)
          else .uninit) }

/-- 41_inspect.md rules R80, R81, 30_encoding.md rule R58: the two read-outs are the same bits in every state. -/
def Obligations.BothReadoutsAreTheSameBits : Prop :=
  ∀ s : State, exec .getState64 s = exec .getState32 s

/-- 41_inspect.md rule R82, 30_encoding.md rule R60: encoding and the whole effect of `FULLSTATE`: character `i`, in
`RES[255-8i : 248-8i]`, is the capital hexadecimal digit of `S[127-4i : 124-4i]`. -/
def Obligations.FullStateSpellsTheState : Prop :=
  (∀ c : CmdWord, c.extractLsb' 128 4 = 0x6#4 → decode c = .instr .fullState) ∧
  ∀ s : State, s.fault = false →
    (s.init = false → exec .fullState s = .next { s with rsp := some .uninit }) ∧
    (s.init = true → ∃ res : Res, exec .fullState s = .next { s with rsp := some (.ok res) } ∧
      ∀ i, i < 32 →
        let n := ((s.regs.w ++ (s.regs.z ++ (s.regs.y ++ s.regs.x)) : BitVec 128).extractLsb' (124 - 4 * i) 4).toNat
        (res.extractLsb' (248 - 8 * i) 8).toNat = if n ≤ 9 then 0x30 + n else 0x41 + (n - 10))

/-- 41_inspect.md rules R80 to R82, 20_memory.md rule R43: an inspection command repeated gives the same response and leaves
the same state. -/
def Obligations.InspectionIsIdempotent : Prop :=
  ∀ (i : Instr) (s : State), i.isInspection = true → s.fault = false →
    ∃ t, exec i s = .next t ∧ exec i t = .next t ∧ t.regs = s.regs ∧ t.init = s.init ∧ t.fault = s.fault

/-- 40_construct.md rule R71, 41_inspect.md rule R81: the halves that `GETSTATE64` returns, given to `FROMSTATE64` on any
engine that is not halted, restore the words. -/
def Obligations.SavedStateIsRestored : Prop :=
  ∀ s u : State, s.fault = false → s.init = true → u.fault = false →
    ∃ res t v, exec .getState64 s = .next t ∧ t.rsp = some (.ok res) ∧
      exec (.fromState64 (res.extractLsb' 0 64) (res.extractLsb' 64 64)) u = .next v ∧
      v.regs = s.regs ∧ v.init = true

/-! ## Advancement -/

/-- 42_advance.md rule R90: encoding and the whole effect of `NEXT`, the old words on every right-hand side. -/
def Obligations.NextTakesOneStep : Prop :=
  (∀ c : CmdWord, c.extractLsb' 128 4 = 0x8#4 → decode c = .instr .next) ∧
  ∀ s : State, s.fault = false →
    (s.init = false → exec .next s = .next { s with rsp := some .uninit }) ∧
    (s.init = true →
      let t := s.regs.x ^^^ (s.regs.x <<< 11)
      let new_w := s.regs.w ^^^ (s.regs.w >>> 19) ^^^ t ^^^ (t >>> 8)
      exec .next s = .next
        { s with regs := ⟨s.regs.y, s.regs.z, s.regs.w, new_w⟩, rsp := some (.ok (new_w.setWidth 256)) })

/-- 42_advance.md rule R91: encoding of `NEXTU32`, and that the two casts cancel: in every state its effect and response
are those of `NEXT`. -/
def Obligations.NextU32EqualsNext : Prop :=
  (∀ c : CmdWord, c.extractLsb' 128 4 = 0x9#4 → decode c = .instr .nextU32) ∧
  (∀ v : Word, pattern32 (signed32 v) = v) ∧
  (∀ s : State, s.fault = false → s.init = true →
    exec .nextU32 s = .next
      { s with regs := nextStep s.regs, rsp := some (.ok ((nextStep s.regs).w.setWidth 256)) }) ∧
  ∀ s : State, exec .nextU32 s = exec .next s

/-- 42_advance.md rule R92: the all-zero state is the only fixed point of the step (the uniqueness is the spec's own
inference), and no inspection or generation command leaves it; `NEXT` and `NEXTU32` answer 0 in it. -/
def Obligations.ZeroIsTheOnlyFixedPoint : Prop :=
  (∀ r : Words, nextStep r = r ↔ r = ⟨0#32, 0#32, 0#32, 0#32⟩) ∧
  (∀ (i : Instr) (s t : State), s.regs = ⟨0#32, 0#32, 0#32, 0#32⟩ → i.isConstructor = false → exec i s = .next t →
    t.regs = ⟨0#32, 0#32, 0#32, 0#32⟩ ∧ ((i = .next ∨ i = .nextU32) → s.init = true → t.rsp = some (.ok 0#256)))

/-- 42_advance.md rule R93 (the spec's own inference): each output follows from the four before it, after four steps the
words are the last four outputs, and four consecutive outputs determine the state they came from. -/
def Obligations.FourOutputsDetermineTheState : Prop :=
  (∀ (r : Words) (k : Nat),
    let o := fun n => (stepsFrom r n).w
    stepsFrom r (k + 4) = ⟨o (k + 1), o (k + 2), o (k + 3), o (k + 4)⟩ ∧
    o (k + 5) = (let t := o (k + 1) ^^^ (o (k + 1) <<< 11)
      o (k + 4) ^^^ (o (k + 4) >>> 19) ^^^ t ^^^ (t >>> 8))) ∧
  ∀ (r q : Words) (k : Nat),
    (∀ j, 1 ≤ j → j ≤ 4 → (stepsFrom r (k + j)).w = (stepsFrom q (k + j)).w) → r = q

/-- 42_advance.md rule R94 (the spec's own inference): the step is linear over exclusive or. -/
def Obligations.StepIsLinearOverXor : Prop :=
  ∀ a b : Words, nextStep (a.xor b) = (nextStep a).xor (nextStep b)

/-- 42_advance.md rule R95 (the spec's own inference): the step is a bijection, with the inverse the spec writes out. -/
def Obligations.StepIsABijection : Prop :=
  (∀ r : Words, prevStep (nextStep r) = r) ∧ ∀ r : Words, nextStep (prevStep r) = r

/-! ## Bounded output -/

/-- 43_bounded.md rule R100: encoding, operand, and the whole effect of `NEXTBOUNDED`; `max = 0` takes the
division-by-zero fault after the step (60_exceptions.md rule R113). -/
def Obligations.NextBoundedReducesModuloMax : Prop :=
  (∀ c : CmdWord, c.extractLsb' 128 4 = 0xA#4 → decode c = .instr (.nextBounded (c.extractLsb' 0 32))) ∧
  ∀ (max : Word) (s : State), s.fault = false →
    exec (.nextBounded max) s = .next (
      if s.init = false then { s with rsp := some .uninit }
      else if max = 0#32 then { s with regs := nextStep s.regs, fault := true, rsp := some .divZero }
      else { s with
        regs := nextStep s.regs
        rsp := some (.ok (BitVec.ofNat 256 ((nextStep s.regs).w.toNat % max.toNat))) })

/-- 43_bounded.md rule R101: encoding, operands, and the whole effect of `NEXTRANGED`; equal operands take the
division-by-zero fault after the step (60_exceptions.md rule R113). -/
def Obligations.NextRangedMapsIntoTheRange : Prop :=
  (∀ c : CmdWord, c.extractLsb' 128 4 = 0xB#4 →
    decode c = .instr (.nextRanged (c.extractLsb' 0 32) (c.extractLsb' 32 32))) ∧
  ∀ (start stop : Word) (s : State), s.fault = false →
    let delta := (stop.toNat + 2 ^ 32 - start.toNat) % 2 ^ 32
    exec (.nextRanged start stop) s = .next (
      if s.init = false then { s with rsp := some .uninit }
      else if start = stop then { s with regs := nextStep s.regs, fault := true, rsp := some .divZero }
      else { s with
        regs := nextStep s.regs
        rsp := some (.ok (BitVec.ofNat 256 ((start.toNat + (nextStep s.regs).w.toNat % delta) % 2 ^ 32))) })

/-- 60_exceptions.md rules R111, R113: on exactly the operands of rule R111 an initialised engine that is not halted takes
the fault: the step is committed, `FAULT` is 1, `INIT` stays 1, the response is `DIVZERO` (1) without a value, nothing
else changes, and the engine is halted. -/
def Obligations.DivisionByZeroTakesTheFault : Prop :=
  Response.divZero.code = 1#2 ∧ Response.divZero.res = none ∧
  ∀ (i : Instr) (s : State), s.fault = false → s.init = true →
    (i.dividesByZero = true ↔ ∃ t, exec i s = .next t ∧ t.rsp = some .divZero) ∧
    (i.dividesByZero = true → ∃ t, exec i s = .next t ∧
      t = { s with regs := nextStep s.regs, fault := true, rsp := some .divZero } ∧ cmdReady t = false)

/-- 43_bounded.md rule R102 (the spec's own inference): how many of the `2^32` raw outputs give each residue. -/
def Obligations.BoundedResiduesAreCounted : Prop :=
  ∀ max r : Word, max ≠ 0#32 → r.toNat < max.toNat →
    Nat.count (fun v => urem32 (BitVec.ofNat 32 v) max = r) (2 ^ 32) =
      2 ^ 32 / max.toNat + (if r.toNat < 2 ^ 32 % max.toNat then 1 else 0)

/-- 43_bounded.md rule R100, corner cases: a power of two keeps the low bits of the new `w`, and a larger `max` all of
it. -/
def Obligations.BoundedByPowerOfTwoKeepsLowBits : Prop :=
  ∀ s : State, s.fault = false → s.init = true →
    (∀ k, k < 32 → ∃ t, exec (.nextBounded (BitVec.twoPow 32 k)) s = .next t ∧
      t.rsp = some (.ok (((nextStep s.regs).w.setWidth k).setWidth 256))) ∧
    (∀ max : Word, (nextStep s.regs).w.toNat < max.toNat → ∃ t, exec (.nextBounded max) s = .next t ∧
      t.rsp = some (.ok ((nextStep s.regs).w.setWidth 256)))

/-- 43_bounded.md rule R101, corner cases: for `start < end` as signed numbers the result lies in `[start, end)`. -/
def Obligations.RangedResultLiesInTheInterval : Prop :=
  ∀ (start stop : Word) (s : State), s.fault = false → s.init = true → signed32 start < signed32 stop →
    ∃ t r, exec (.nextRanged start stop) s = .next t ∧ t.rsp = some (.ok (BitVec.setWidth 256 (r : Word))) ∧
      signed32 start ≤ signed32 r ∧ signed32 r < signed32 stop

/-- 43_bounded.md rule R101, corner cases: with the default operands the result is the new `w` with its top bit turned,
except that the largest raw output gives `INT32_MIN`. -/
def Obligations.DefaultRangeTurnsTheTopBit : Prop :=
  ∀ s : State, s.fault = false → s.init = true →
    ∃ t, exec (.nextRanged 0x80000000#32 0x7FFFFFFF#32) s = .next t ∧
      t.rsp = some (.ok (BitVec.setWidth 256 (if (nextStep s.regs).w = 0xFFFFFFFF#32 then 0x80000000#32
        else (nextStep s.regs).w ^^^ 0x80000000#32)))

/-- 43_bounded.md rule R103 (d), (e) (the spec's own inference): shifting both operands shifts the result and nothing else;
with `start = 0` the command is `NEXTBOUNDED end`. -/
def Obligations.RangedShiftsWithItsOperands : Prop :=
  (∀ (stop : Word) (s : State), exec (.nextRanged 0#32 stop) s = exec (.nextBounded stop) s) ∧
  ∀ (start stop k r : Word) (s t : State), exec (.nextRanged start stop) s = .next t →
    t.rsp = some (.ok (r.setWidth 256)) →
    exec (.nextRanged (start + k) (stop + k)) s = .next { t with rsp := some (.ok ((r + k).setWidth 256)) }

/-! ## Frames, whole-machine rules, invariants -/

/-- 10_state.md rule R26: what every instruction leaves unchanged when it answers a next state. The words are the
destination of constructors and of generation commands only; there is no memory. -/
def Obligations.InstructionsKeepTheirFrame : Prop :=
  ∀ (i : Instr) (s t : State), exec i s = .next t →
    t.host = s.host ∧ t.freeCount = s.freeCount ∧
    (i.isConstructor = true → t.init = true ∧ t.fault = s.fault) ∧
    (i.isInspection = true → t.regs = s.regs ∧ t.init = s.init ∧ t.fault = s.fault) ∧
    (i.isGeneration = true → t.init = s.init ∧ t.regs = (if s.init then nextStep s.regs else s.regs) ∧
      t.fault = (s.fault || (s.init && i.dividesByZero)))

/-- 10_state.md rule R26: the words change only by a reset, a constructor, or a generation command of an initialised
engine, and then by exactly one step. -/
def Obligations.OnlyThreeThingsChangeTheWords : Prop :=
  ∀ s t : State, step s = .next t → t.regs ≠ s.regs →
    (∃ rest, s.host = .reset :: rest) ∨
    (∃ c rest i, s.host = .command c :: rest ∧ decode c = .instr i ∧
      (i.isConstructor = true ∨ (i.isGeneration = true ∧ s.init = true ∧ t.regs = nextStep s.regs)))

/-- 10_state.md rule R28: but for reset, no step is taken with `FAULT = 1`, so none clears it, and none clears `INIT`;
`INIT` is set only by a constructor, `FAULT` only by a division by zero of an initialised engine. That a halted engine has
no step is log entry 4. -/
def Obligations.FlagsAreStickyAndSetOnlyByTheirCommands : Prop :=
  ∀ s t : State, step s = .next t → (∀ rest, s.host ≠ .reset :: rest) →
    s.fault = false ∧ (s.init = true → t.init = true) ∧
    (s.init = false → t.init = true → ∃ c rest i, s.host = .command c :: rest ∧ decode c = .instr i ∧
      i.isConstructor = true) ∧
    (t.fault = true → s.init = true ∧ ∃ c rest i, s.host = .command c :: rest ∧
      decode c = .instr i ∧ i.dividesByZero = true)

/-- 10_state.md rule R28, 60_exceptions.md rules R113, R118: every step keeps the invariant: `FAULT` only with `INIT`,
halted exactly after a `DIVZERO` response, values only from an initialised engine. -/
def Obligations.StepKeepsTheFlagInvariant : Prop :=
  ∀ s t : State, s.Inv → step s = .next t → t.Inv

/-- The invariant holds after reset. -/
def Obligations.ResetMeetsTheFlagInvariant : Prop := State.reset.Inv

/-- 70_reset_and_hazards.md rule R139, 10_state.md rule R34: two engines that a host cannot tell apart, whatever words they
hold while `INIT = 0`, have the same outcome of a step and cannot be told apart after it. -/
def Obligations.UnspecifiedWordsNeverEscape : Prop :=
  ∀ s t : State, State.Agree s t → Result.Agree (step s) (step t)

/-- 70_reset_and_hazards.md rule R139, 60_exceptions.md rule R125: whatever words and free values two engines start with
after reset, the same host actions give the same responses, over any number of transactions. That the responses before and
after a reset of the host are joined in one list is the model's choice (log entry 12). -/
def Obligations.ResponsesDependOnTheCommandsAlone : Prop :=
  ∀ (k : Nat) (h : List HostAction) (a b : Words) (m n : Nat),
    runResponses k { State.reset with regs := a, freeCount := m, host := h } =
      runResponses k { State.reset with regs := b, freeCount := n, host := h }
end

