-- ==== Sys2Proof/Laws/Bits.lean ====
section
/-! SUPPORT. The bits of the concatenations that the model uses, at the widths it uses them. -/

namespace Sys2Proof

/-- Two words side by side. -/
theorem getLsbD_append_32_32 (a b : Word) (i : Nat) :
    BitVec.getLsbD (w := 64) (a ++ b) i = if i < 32 then b.getLsbD i else a.getLsbD (i - 32) := BitVec.getLsbD_append

/-- Two halves side by side. -/
theorem getLsbD_append_64_64 (a b : DWord) (i : Nat) :
    BitVec.getLsbD (w := 128) (a ++ b) i = if i < 64 then b.getLsbD i else a.getLsbD (i - 64) := BitVec.getLsbD_append

/-- Four words side by side, the last one lowest. -/
theorem getLsbD_joinWords (w z y x : Word) (i : Nat) :
    (joinWords w z y x).getLsbD i =
      if i < 32 then x.getLsbD i else if i < 64 then y.getLsbD (i - 32) else
        if i < 96 then z.getLsbD (i - 64) else w.getLsbD (i - 96) := by
  have h : (joinWords w z y x).getLsbD i =
      (w ++ (z ++ (y ++ x)) : BitVec (32 + (32 + (32 + 32)))).getLsbD i := rfl
  rw [h, BitVec.getLsbD_append, BitVec.getLsbD_append, BitVec.getLsbD_append]
  repeat' split
  all_goals first | rfl | omega

/-- An opcode above an operand field. -/
theorem getLsbD_append_4_128 (op : BitVec 4) (arg : QWord) (i : Nat) :
    BitVec.getLsbD (w := 132) (op ++ arg) i = if i < 128 then arg.getLsbD i else op.getLsbD (i - 128) := BitVec.getLsbD_append

/-- The opcode of a word put together from an opcode and an operand field. -/
@[simp] theorem opField_append (op : BitVec 4) (arg : QWord) : opField (op ++ arg) = op := by
  apply BitVec.eq_of_getLsbD_eq
  intro i hi
  simp [opField, getLsbD_append_4_128, hi]

/-- The operand field of a word put together from an opcode and an operand field. -/
@[simp] theorem argField_append (op : BitVec 4) (arg : QWord) : argField (op ++ arg) = arg := by
  apply BitVec.eq_of_getLsbD_eq
  intro i hi
  simp [argField, getLsbD_append_4_128, hi]

namespace Machine

/-- The bits of `s0`: `x` below `y` (10_state.md rule R22). -/
theorem getLsbD_s0Of (r : Words) (i : Nat) :
    (s0Of r).getLsbD i = if i < 32 then r.x.getLsbD i else r.y.getLsbD (i - 32) := getLsbD_append_32_32 _ _ _

/-- The bits of `s1`: `z` below `w` (10_state.md rule R22). -/
theorem getLsbD_s1Of (r : Words) (i : Nat) :
    (s1Of r).getLsbD i = if i < 32 then r.z.getLsbD i else r.w.getLsbD (i - 32) := getLsbD_append_32_32 _ _ _

/-- The bits of `S`: `x` lowest, `w` highest (10_state.md rule R22). -/
theorem getLsbD_stateVec (r : Words) (i : Nat) :
    (stateVec r).getLsbD i = if i < 32 then r.x.getLsbD i else if i < 64 then r.y.getLsbD (i - 32) else
      if i < 96 then r.z.getLsbD (i - 64) else r.w.getLsbD (i - 96) := getLsbD_joinWords _ _ _ _ _

end Machine
end Sys2Proof
end

