-- ==== Sys2Proof/Laws/State.lean ====
section
/-! SUPPORT. One lemma for each field of the state under each update, so that no proof unfolds a record update. -/

namespace Sys2Proof.Machine

@[simp] theorem State.respond_regs (s : State) (r : Response) : (s.respond r).regs = s.regs := rfl
@[simp] theorem State.respond_init (s : State) (r : Response) : (s.respond r).init = s.init := rfl
@[simp] theorem State.respond_fault (s : State) (r : Response) : (s.respond r).fault = s.fault := rfl
@[simp] theorem State.respond_rsp (s : State) (r : Response) : (s.respond r).rsp = some r := rfl
@[simp] theorem State.respond_host (s : State) (r : Response) : (s.respond r).host = s.host := rfl
@[simp] theorem State.respond_freeCount (s : State) (r : Response) : (s.respond r).freeCount = s.freeCount := rfl

@[simp] theorem State.noResponse_regs (s : State) : (s.noResponse).regs = s.regs := rfl
@[simp] theorem State.noResponse_init (s : State) : (s.noResponse).init = s.init := rfl
@[simp] theorem State.noResponse_fault (s : State) : (s.noResponse).fault = s.fault := rfl
@[simp] theorem State.noResponse_rsp (s : State) : (s.noResponse).rsp = none := rfl
@[simp] theorem State.noResponse_host (s : State) : (s.noResponse).host = s.host := rfl
@[simp] theorem State.noResponse_freeCount (s : State) : (s.noResponse).freeCount = s.freeCount := rfl

@[simp] theorem State.loadWords_regs (s : State) (r : Words) : (s.loadWords r).regs = r := rfl
@[simp] theorem State.loadWords_init (s : State) (r : Words) : (s.loadWords r).init = s.init := rfl
@[simp] theorem State.loadWords_fault (s : State) (r : Words) : (s.loadWords r).fault = s.fault := rfl
@[simp] theorem State.loadWords_rsp (s : State) (r : Words) : (s.loadWords r).rsp = s.rsp := rfl
@[simp] theorem State.loadWords_host (s : State) (r : Words) : (s.loadWords r).host = s.host := rfl
@[simp] theorem State.loadWords_freeCount (s : State) (r : Words) : (s.loadWords r).freeCount = s.freeCount := rfl

@[simp] theorem State.withHost_regs (s : State) (h : List HostAction) : (s.withHost h).regs = s.regs := rfl
@[simp] theorem State.withHost_init (s : State) (h : List HostAction) : (s.withHost h).init = s.init := rfl
@[simp] theorem State.withHost_fault (s : State) (h : List HostAction) : (s.withHost h).fault = s.fault := rfl
@[simp] theorem State.withHost_rsp (s : State) (h : List HostAction) : (s.withHost h).rsp = s.rsp := rfl
@[simp] theorem State.withHost_host (s : State) (h : List HostAction) : (s.withHost h).host = h := rfl
@[simp] theorem State.withHost_freeCount (s : State) (h : List HostAction) :
    (s.withHost h).freeCount = s.freeCount := rfl

@[simp] theorem State.setInit_regs (s : State) : (s.setInit).regs = s.regs := rfl
@[simp] theorem State.setInit_init (s : State) : (s.setInit).init = true := rfl
@[simp] theorem State.setInit_fault (s : State) : (s.setInit).fault = s.fault := rfl
@[simp] theorem State.setInit_rsp (s : State) : (s.setInit).rsp = s.rsp := rfl
@[simp] theorem State.setInit_host (s : State) : (s.setInit).host = s.host := rfl
@[simp] theorem State.setInit_freeCount (s : State) : (s.setInit).freeCount = s.freeCount := rfl

@[simp] theorem State.setFault_regs (s : State) : (s.setFault).regs = s.regs := rfl
@[simp] theorem State.setFault_init (s : State) : (s.setFault).init = s.init := rfl
@[simp] theorem State.setFault_fault (s : State) : (s.setFault).fault = true := rfl
@[simp] theorem State.setFault_rsp (s : State) : (s.setFault).rsp = s.rsp := rfl
@[simp] theorem State.setFault_host (s : State) : (s.setFault).host = s.host := rfl
@[simp] theorem State.setFault_freeCount (s : State) : (s.setFault).freeCount = s.freeCount := rfl

@[simp] theorem State.raiseDivZero_regs (s : State) : (s.raiseDivZero).regs = s.regs := rfl
@[simp] theorem State.raiseDivZero_init (s : State) : (s.raiseDivZero).init = s.init := rfl
@[simp] theorem State.raiseDivZero_fault (s : State) : (s.raiseDivZero).fault = true := rfl
@[simp] theorem State.raiseDivZero_rsp (s : State) : (s.raiseDivZero).rsp = some .divZero := rfl
@[simp] theorem State.raiseDivZero_host (s : State) : (s.raiseDivZero).host = s.host := rfl
@[simp] theorem State.raiseDivZero_freeCount (s : State) : (s.raiseDivZero).freeCount = s.freeCount := rfl

@[simp] theorem State.takeReset_regs (s : State) : (s.takeReset).regs = freeWords s.freeCount := rfl
@[simp] theorem State.takeReset_init (s : State) : (s.takeReset).init = false := rfl
@[simp] theorem State.takeReset_fault (s : State) : (s.takeReset).fault = false := rfl
@[simp] theorem State.takeReset_rsp (s : State) : (s.takeReset).rsp = none := rfl
@[simp] theorem State.takeReset_host (s : State) : (s.takeReset).host = s.host := rfl
@[simp] theorem State.takeReset_freeCount (s : State) : (s.takeReset).freeCount = s.freeCount + 4 := rfl

@[simp] theorem State.advance_regs (s : State) : (s.advance).regs = nextStep s.regs := rfl
@[simp] theorem State.advance_init (s : State) : (s.advance).init = s.init := rfl
@[simp] theorem State.advance_fault (s : State) : (s.advance).fault = s.fault := rfl
@[simp] theorem State.advance_rsp (s : State) : (s.advance).rsp = s.rsp := rfl
@[simp] theorem State.advance_host (s : State) : (s.advance).host = s.host := rfl
@[simp] theorem State.advance_freeCount (s : State) : (s.advance).freeCount = s.freeCount := rfl

@[simp] theorem State.present_regs (s : State) (c : CmdWord) : (s.present c).regs = s.regs := rfl
@[simp] theorem State.present_init (s : State) (c : CmdWord) : (s.present c).init = s.init := rfl
@[simp] theorem State.present_fault (s : State) (c : CmdWord) : (s.present c).fault = s.fault := rfl
@[simp] theorem State.present_rsp (s : State) (c : CmdWord) : (s.present c).rsp = s.rsp := rfl
@[simp] theorem State.present_host (s : State) (c : CmdWord) : (s.present c).host = .command c :: s.host := rfl
@[simp] theorem State.present_freeCount (s : State) (c : CmdWord) : (s.present c).freeCount = s.freeCount := rfl

@[simp] theorem construct_regs (r : Words) (s : State) : (construct r s).regs = r := rfl
@[simp] theorem construct_init (r : Words) (s : State) : (construct r s).init = true := rfl
@[simp] theorem construct_fault (r : Words) (s : State) : (construct r s).fault = s.fault := rfl
@[simp] theorem construct_rsp (r : Words) (s : State) : (construct r s).rsp = some (.ok 0#256) := rfl
@[simp] theorem construct_host (r : Words) (s : State) : (construct r s).host = s.host := rfl
@[simp] theorem construct_freeCount (r : Words) (s : State) : (construct r s).freeCount = s.freeCount := rfl

@[simp] theorem State.reset_init : State.reset.init = false := rfl
@[simp] theorem State.reset_fault : State.reset.fault = false := rfl
@[simp] theorem State.reset_rsp : State.reset.rsp = none := rfl
@[simp] theorem State.reset_host : State.reset.host = [] := rfl

end Sys2Proof.Machine
end

