-- ==== Sys2Proof/Laws/Ops.lean ====
section
/-! SUPPORT. What each shared operation can do, said once. -/

namespace Sys2Proof.Machine

/-- A halted engine accepts nothing. -/
@[simp] theorem accept_of_fault {s : State} {body : State → State} (h : s.fault = true) :
    accept s body = .fault .halted := by simp [accept, h]

/-- A running engine does what the body says. -/
@[simp] theorem accept_of_running {s : State} {body : State → State} (h : s.fault = false) :
    accept s body = .next (body s) := by simp [accept, h]

/-- `accept` answers a next state exactly when the engine runs, and then the body's. -/
theorem accept_eq_next_iff {s t : State} {body : State → State} :
    accept s body = .next t ↔ s.fault = false ∧ t = body s := by
  cases h : s.fault <;> simp [accept, h, eq_comm]

/-- `accept` never refuses. -/
theorem accept_ne_refused {s : State} {body : State → State} {r : Refusal} : accept s body ≠ .refused r := by
  cases h : s.fault <;> simp [accept, h]

@[simp] theorem requireInit_of_init {s : State} {body : State → State} (h : s.init = true) :
    requireInit body s = body s := by simp [requireInit, h]

@[simp] theorem requireInit_of_uninit {s : State} {body : State → State} (h : s.init = false) :
    requireInit body s = s.respond .uninit := by simp [requireInit, h]

/-- An inspection command, in every engine that runs. -/
theorem inspect_eq_next_iff {value : Words → Res} {s t : State} :
    inspect value s = .next t ↔ s.fault = false ∧
      ((s.init = true ∧ t = s.respond (.ok (value s.regs))) ∨ (s.init = false ∧ t = s.respond .uninit)) := by
  unfold inspect
  rw [accept_eq_next_iff]
  cases h : s.init <;> simp [h]

/-- A generation command, in every engine that runs: one step and then the output, or `UNINIT`. -/
theorem generate_eq_next_iff {output : State → State} {s t : State} :
    generate output s = .next t ↔ s.fault = false ∧
      ((s.init = true ∧ t = output s.advance) ∨ (s.init = false ∧ t = s.respond .uninit)) := by
  unfold generate
  rw [accept_eq_next_iff]
  cases h : s.init <;> simp [h]

/-- The host's action and the state it leaves behind. -/
theorem takeAction_nil {s : State} (h : s.host = []) : takeAction s = none := by simp [takeAction, h]

theorem takeAction_cons {s : State} {a : HostAction} {rest : List HostAction} (h : s.host = a :: rest) :
    takeAction s = some (a, s.withHost rest) := by simp [takeAction, h]

end Sys2Proof.Machine
end

