-- ==== Sys2Proof/Laws/PerInstr.lean ====
section
/-! SUPPORT. Statements for all instructions, one lemma for each constructor. `TableRow`: an instruction's command word
matches its row of spec/opcode_table.json under the row's mask. -/

namespace Sys2Proof.Laws.TableRow

/-- The mask of every row. -/
def mask : CmdWord := 0xF00000000000000000000000000000000#132

/-- The `match` number of the instruction's row. -/
def rowMatch : Instr → CmdWord
  | .fromSeed _ => 0x100000000000000000000000000000000#132
  | .fromState64 _ _ => 0x200000000000000000000000000000000#132
  | .fromState32 _ _ _ _ => 0x300000000000000000000000000000000#132
  | .getState32 => 0x400000000000000000000000000000000#132
  | .getState64 => 0x500000000000000000000000000000000#132
  | .fullState => 0x600000000000000000000000000000000#132
  | .next => 0x800000000000000000000000000000000#132
  | .nextU32 => 0x900000000000000000000000000000000#132
  | .nextBounded _ => 0xA00000000000000000000000000000000#132
  | .nextRanged _ _ => 0xB00000000000000000000000000000000#132

/-- The word of the instruction is one of its row: `c AND mask = match` (30_encoding.md, first paragraph). -/
def Statement (i : Instr) : Prop := encode i &&& mask = rowMatch i

/-- The mask keeps the opcode and drops the operand field. -/
theorem append_and_mask (op : BitVec 4) (arg : QWord) : (op ++ arg : CmdWord) &&& mask = op ++ 0#128 := by
  have h : mask = BitVec.allOnes 4 ++ 0#128 := by decide
  rw [h, BitVec.and_append, BitVec.and_allOnes, BitVec.and_zero]

theorem encode_and_mask (i : Instr) : encode i &&& mask = opcode i ++ 0#128 := append_and_mask _ _

theorem fromSeed (seed : Word) : Statement (.fromSeed seed) :=
  (encode_and_mask _).trans (by simp only [opcode, rowMatch]; decide)
theorem fromState64 (s0 s1 : DWord) : Statement (.fromState64 s0 s1) :=
  (encode_and_mask _).trans (by simp only [opcode, rowMatch]; decide)
theorem fromState32 (x y z w : Word) : Statement (.fromState32 x y z w) :=
  (encode_and_mask _).trans (by simp only [opcode, rowMatch]; decide)
theorem getState32 : Statement .getState32 :=
  (encode_and_mask _).trans (by simp only [opcode, rowMatch]; decide)
theorem getState64 : Statement .getState64 :=
  (encode_and_mask _).trans (by simp only [opcode, rowMatch]; decide)
theorem fullState : Statement .fullState :=
  (encode_and_mask _).trans (by simp only [opcode, rowMatch]; decide)
theorem next : Statement .next :=
  (encode_and_mask _).trans (by simp only [opcode, rowMatch]; decide)
theorem nextU32 : Statement .nextU32 :=
  (encode_and_mask _).trans (by simp only [opcode, rowMatch]; decide)
theorem nextBounded (max : Word) : Statement (.nextBounded max) :=
  (encode_and_mask _).trans (by simp only [opcode, rowMatch]; decide)
theorem nextRanged (start stop : Word) : Statement (.nextRanged start stop) :=
  (encode_and_mask _).trans (by simp only [opcode, rowMatch]; decide)

end Sys2Proof.Laws.TableRow
end

