-- ==== Sys2Proof/Laws/Step.lean ====
section
/-! SUPPORT. What an instruction and a step can do, said once: the inversion lemmas of `exec`, `runCommand`, `step`. -/

namespace Sys2Proof.Machine

/-- The words that a constructor loads; the other commands load none. -/
def builtWords : Instr → Option Words
  | .fromSeed seed => some (seedWords seed)
  | .fromState64 s0 s1 => some (unpack64to32 s0 s1)
  | .fromState32 x y z w => some ⟨x, y, z, w⟩
  | .getState32 => none
  | .getState64 => none
  | .fullState => none
  | .next => none
  | .nextU32 => none
  | .nextBounded _ => none
  | .nextRanged _ _ => none

/-- The value that an inspection command reads. -/
def inspectedValue : Instr → Option (Words → Res)
  | .fromSeed _ => none
  | .fromState64 _ _ => none
  | .fromState32 _ _ _ _ => none
  | .getState32 => some fun r => resOf (stateVec r)
  | .getState64 => some fun r => resOf ((pack32to64 r).2 ++ (pack32to64 r).1)
  | .fullState => some fun r => packChars (fullStateChars (stateVec r))
  | .next => none
  | .nextU32 => none
  | .nextBounded _ => none
  | .nextRanged _ _ => none

/-- The response of a generation command to the new `w`; none is the division-by-zero fault. -/
def generatedValue : Instr → Option (Word → Option Word)
  | .fromSeed _ => none
  | .fromState64 _ _ => none
  | .fromState32 _ _ _ _ => none
  | .getState32 => none
  | .getState64 => none
  | .fullState => none
  | .next => some fun v => some v
  | .nextU32 => some fun v => some (pattern32 (signed32 v))
  | .nextBounded max => some fun v => if max = 0#32 then none else some (urem32 v max)
  | .nextRanged start stop => some fun v =>
      if sub32 stop start = 0#32 then none else some (add32 start (urem32 v (sub32 stop start)))

/-- What a generation command does after the step. -/
def deliver (out : Option Word) (s : State) : State :=
  match out with
  | some v => s.respond (.ok (resOf v))
  | none => s.raiseDivZero

/-- A constructor's meaning is one shared operation. -/
theorem exec_built {i : Instr} {r : Words} (h : builtWords i = some r) (s : State) :
    exec i s = accept s (construct r) := by
  cases i <;> simp only [builtWords, Option.some.injEq, reduceCtorEq] at h <;> subst h <;> rfl

/-- An inspection command's meaning is one shared operation. -/
theorem exec_inspected {i : Instr} {f : Words → Res} (h : inspectedValue i = some f) (s : State) :
    exec i s = inspect f s := by
  cases i <;> simp only [inspectedValue, Option.some.injEq, reduceCtorEq] at h <;> subst h <;> rfl

/-- A generation command's meaning is one shared operation: one step, then its response to the new `w`. -/
theorem exec_generated {i : Instr} {f : Word → Option Word} (h : generatedValue i = some f) (s : State) :
    exec i s = generate (fun u => deliver (f u.regs.w) u) s := by
  cases i with
  | fromSeed | fromState64 | fromState32 | getState32 | getState64 | fullState => cases h
  | next | nextU32 => cases h; rfl
  | nextBounded max =>
    cases h
    simp only [exec, execNextBounded]
    congr 1
    funext u
    by_cases hm : max = 0#32 <;> simp [hm, deliver]
  | nextRanged start stop =>
    cases h
    simp only [exec, execNextRanged]
    congr 1
    funext u
    by_cases hm : sub32 stop start = 0#32 <;> simp [hm, deliver]

/-- Every instruction is a constructor, an inspection command or a generation command. -/
theorem instr_classes (i : Instr) :
    (∃ r, builtWords i = some r) ∨ (builtWords i = none ∧ ∃ f, inspectedValue i = some f) ∨
      (builtWords i = none ∧ ∃ f, generatedValue i = some f) := by
  cases i <;> simp [builtWords, inspectedValue, generatedValue]

theorem exec_of_fault (i : Instr) {s : State} (h : s.fault = true) : exec i s = .fault .halted := by
  obtain ⟨r, hr⟩ | ⟨-, f, hf⟩ | ⟨-, f, hf⟩ := instr_classes i
  · rw [exec_built hr, accept_of_fault h]
  · rw [exec_inspected hf, inspect, accept_of_fault h]
  · rw [exec_generated hf, generate, accept_of_fault h]

/-- An engine that runs completes every instruction: there is no other stop than the halted state. -/
theorem exec_of_running (i : Instr) {s : State} (h : s.fault = false) : ∃ t, exec i s = .next t := by
  obtain ⟨r, hr⟩ | ⟨-, f, hf⟩ | ⟨-, f, hf⟩ := instr_classes i
  · exact ⟨_, by rw [exec_built hr, accept_of_running h]⟩
  · exact ⟨_, by rw [exec_inspected hf, inspect, accept_of_running h]⟩
  · exact ⟨_, by rw [exec_generated hf, generate, accept_of_running h]⟩

/-- What any instruction can do: it constructs, reads or advances, or it is refused with `UNINIT`. -/
theorem exec_cases {i : Instr} {s t : State} (h : exec i s = .next t) :
    s.fault = false ∧
      ((∃ r, builtWords i = some r ∧ t = construct r s) ∨
       (s.init = true ∧ ∃ f, inspectedValue i = some f ∧ t = s.respond (.ok (f s.regs))) ∨
       (s.init = true ∧ ∃ f, generatedValue i = some f ∧ t = deliver (f (nextStep s.regs).w) s.advance) ∨
       (s.init = false ∧ builtWords i = none ∧ t = s.respond .uninit)) := by
  obtain ⟨r, hr⟩ | ⟨hb, f, hf⟩ | ⟨hb, f, hf⟩ := instr_classes i
  · rw [exec_built hr] at h
    obtain ⟨hf, rfl⟩ := accept_eq_next_iff.mp h
    exact ⟨hf, .inl ⟨r, hr, rfl⟩⟩
  · rw [exec_inspected hf] at h
    obtain ⟨hr, ⟨hi, rfl⟩ | ⟨hi, rfl⟩⟩ := inspect_eq_next_iff.mp h
    · exact ⟨hr, .inr (.inl ⟨hi, f, hf, rfl⟩)⟩
    · exact ⟨hr, .inr (.inr (.inr ⟨hi, hb, rfl⟩))⟩
  · rw [exec_generated hf] at h
    obtain ⟨hr, ⟨hi, rfl⟩ | ⟨hi, rfl⟩⟩ := generate_eq_next_iff.mp h
    · exact ⟨hr, .inr (.inr (.inl ⟨hi, f, hf, rfl⟩))⟩
    · exact ⟨hr, .inr (.inr (.inr ⟨hi, hb, rfl⟩))⟩

theorem runCommand_instr {c : CmdWord} {i : Instr} (h : decode c = .instr i) (s : State) :
    runCommand c s = exec i s := by simp [runCommand, h]

theorem runCommand_reserved {c : CmdWord} {op : BitVec 4} (h : decode c = .reserved op) (s : State) :
    runCommand c s = refuseIllegal s := by simp [runCommand, h]

theorem step_command {s : State} {c : CmdWord} {rest : List HostAction} (h : s.host = .command c :: rest) :
    step s = runCommand c (s.withHost rest) := by simp [step, takeAction_cons h]

theorem step_reset {s : State} {rest : List HostAction} (h : s.host = .reset :: rest) :
    step s = .next (s.withHost rest).takeReset := by simp [step, takeAction_cons h]

theorem step_idle {s : State} (h : s.host = []) : step s = idle s := by simp [step, takeAction_nil h]

/-- What a step can do: run an instruction, refuse a reserved opcode, take a reset, or idle. -/
theorem step_cases {s t : State} (h : step s = .next t) :
    (∃ c rest i, s.host = .command c :: rest ∧ decode c = .instr i ∧ exec i (s.withHost rest) = .next t) ∨
    (∃ c rest op, s.host = .command c :: rest ∧ decode c = .reserved op ∧ s.fault = false ∧
      t = (s.withHost rest).respond .illegal) ∨
    (∃ rest, s.host = .reset :: rest ∧ t = (s.withHost rest).takeReset) ∨
    (s.host = [] ∧ s.fault = false ∧ t = s.noResponse) := by
  match hh : s.host with
  | [] =>
    rw [step_idle hh, idle, accept_eq_next_iff] at h
    exact .inr (.inr (.inr ⟨rfl, h⟩))
  | .reset :: rest =>
    rw [step_reset hh] at h
    cases h
    exact .inr (.inr (.inl ⟨rest, rfl, rfl⟩))
  | .command c :: rest =>
    rw [step_command hh] at h
    cases hd : decode c with
    | instr i => exact .inl ⟨c, rest, i, rfl, hd, by rw [← h, runCommand_instr hd]⟩
    | reserved op =>
      rw [runCommand_reserved hd, refuseIllegal, accept_eq_next_iff] at h
      exact .inr (.inl ⟨c, rest, op, rfl, hd, h⟩)

end Sys2Proof.Machine
end

