-- ==== Sys2Proof/Tests/Slice0.lean ====
section
/-! SUPPORT. The model's own tests. Expected values are from 95_test_vectors.md (the identifiers K, I, V, A, B, G, X) and
from the examples of the instruction rules; they are the spec's evaluation of its rules, not measurements. After them, for
each statement with hypotheses, a witness that meets them. -/

namespace Sys2Proof.Tests

open Sys2Proof.Machine

/-- A small state with nothing presented. -/
def st (x y z w : Word) (init fault : Bool) : State :=
  { State.reset with regs := ⟨x, y, z, w⟩, init := init, fault := fault }

/-- The state after `FROMSEED 1` (40_construct.md rule R70, example). -/
def seeded : State := st 0x00000001#32 0x6C078966#32 0x714ACB3F#32 0xDBFFE6DC#32 true false

/-- Its words after one step (vector A12). -/
def seededNext : Words := ⟨0x6C078966#32, 0x714ACB3F#32, 0xDBFFE6DC#32, 0xDBFFF5AA#32⟩

/-- The halted engine of vector X7. -/
def halted : State := { seeded with regs := seededNext, fault := true, rsp := some .divZero }

/-- The words after a result, where it is a next state. -/
def wordsOf : Result → Option Words
  | .next s => some s.regs
  | .fault _ => none
  | .refused _ => none

/-- The response and the flags after a result, where it is a next state. -/
def answer : Result → Option (Option Response × Bool × Bool)
  | .next s => some (s.rsp, s.init, s.fault)
  | .fault _ => none
  | .refused _ => none

/-- `OK` with a value from an initialised engine. -/
def okWith (v : Res) : Option (Option Response × Bool × Bool) := some (some (.ok v), true, false)

/-! ## Well-formedness: for each check a line that it refuses (30_encoding.md rule R63) -/

theorem test_wf_operand_count : Asm.Line.wf (.op .FROMSEED []) = false := by decide
theorem test_wf_no_operand : Asm.Line.wf (.op .NEXT [.num 1]) = false := by decide
theorem test_wf_u32_range : Asm.Line.wf (.op .NEXTBOUNDED [.num 4294967296]) = false := by decide
theorem test_wf_u32_negative : Asm.Line.wf (.op .FROMSEED [.num (-1)]) = false := by decide
theorem test_wf_u64_range : Asm.Line.wf (.op .FROMSTATE64 [.num 0, .num 18446744073709551616]) = false := by decide
theorem test_wf_i32_range : Asm.Line.wf (.op .NEXTRANGED [.num (-2147483649), .num 0]) = false := by decide
theorem test_wf_star_elsewhere : Asm.Line.wf (.op .FROMSTATE32 [.num 0, .star, .num 0, .num 0]) = false := by decide
theorem test_wf_good : Asm.Line.wf (.op .NEXTRANGED [.num (-2147483648), .num 4294967295]) = true := by decide
theorem test_wf_instr : (Instr.nextBounded 0#32).wf = true := by decide

/-! ## Decoding: words written out from 30_encoding.md rules R52 to R55 (R65, I8, X9, X12 to X14) -/

theorem test_decode_fromSeed :
    decode 0x1FFFFFFFFFFFFFFFFFFFFFFFFDEADBEEF#132 = .instr (.fromSeed 0xDEADBEEF#32) := by decide
theorem test_decode_fromState64 :
    decode 0x2FEDCBA98765432100123456789ABCDEF#132
      = .instr (.fromState64 0x0123456789ABCDEF#64 0xFEDCBA9876543210#64) := by decide
theorem test_decode_fromState32 :
    decode 0x344444444333333332222222211111111#132
      = .instr (.fromState32 0x11111111#32 0x22222222#32 0x33333333#32 0x44444444#32) := by decide
theorem test_decode_getState32 : decode 0x400000000000000000000000000000000#132 = .instr .getState32 := by decide
theorem test_decode_getState64 : decode 0x500000000000000000000000000000000#132 = .instr .getState64 := by decide
theorem test_decode_fullState : decode 0x600000000000000000000000000000000#132 = .instr .fullState := by decide
theorem test_decode_next : decode 0x8FFFFFFFFFFFFFFFFFFFFFFFFFFFFFFFF#132 = .instr .next := by decide
theorem test_decode_nextU32 : decode 0x900000000000000000000000000000000#132 = .instr .nextU32 := by decide
theorem test_decode_nextBounded :
    decode 0xAFFFFFFFFFFFFFFFFFFFFFFFF00000000#132 = .instr (.nextBounded 0#32) := by decide
theorem test_decode_nextRanged :
    decode 0xB000000000000000000000005FFFFFFFB#132 = .instr (.nextRanged 0xFFFFFFFB#32 5#32) := by decide
theorem test_decode_reserved : decode 0x70000000000000000000000000000FFFF#132 = .reserved 7#4 := by decide
theorem test_decode_zero : decode 0#132 = .reserved 0#4 := by decide
theorem test_encode_nextRanged :
    encode (.nextRanged 0x80000000#32 0x7FFFFFFF#32) = 0xB00000000000000007FFFFFFF80000000#132 := by decide
theorem test_table_word : decodeTableWord 136 0x1000000000000000000000000DEADBEEF = some (.fromSeed 0xDEADBEEF#32) := by
  decide

/-! ## Construction (K1, K6, I8) -/

theorem test_fromSeed_zero :
    wordsOf (exec (.fromSeed 0#32) State.reset)
      = some ⟨0x00000000#32, 0x00000001#32, 0x6C078966#32, 0x714ACB3F#32⟩ := by decide
theorem test_fromSeed_wraps :
    wordsOf (exec (.fromSeed 0xFFFFFFFF#32) seeded)
      = some ⟨0xFFFFFFFF#32, 0x93F8769C#32, 0x66C4478D#32, 0x0695AFA2#32⟩ := by decide
theorem test_fromState64 :
    wordsOf (exec (.fromState64 0x0123456789ABCDEF#64 0xFEDCBA9876543210#64) State.reset)
      = some ⟨0x89ABCDEF#32, 0x01234567#32, 0x76543210#32, 0xFEDCBA98#32⟩ := by decide
theorem test_fromState32 :
    answer (exec (.fromState32 1#32 2#32 3#32 4#32) State.reset) = okWith 0#256 := by decide

/-! ## Inspection (V5, V7, S3) -/

theorem test_getState32 :
    answer (exec .getState32 seeded) = okWith 0xDBFFE6DC714ACB3F6C07896600000001#256 := by decide
theorem test_getState64 :
    answer (exec .getState64 seeded) = okWith 0xDBFFE6DC714ACB3F6C07896600000001#256 := by decide
theorem test_fullState :
    answer (exec .fullState (st 0x89ABCDEF#32 0x01234567#32 0x76543210#32 0xFEDCBA98#32 true false))
      = okWith 0x4645444342413938373635343332313030313233343536373839414243444546#256 := by decide
theorem test_fullState_one :
    answer (exec .fullState (st 0#32 0#32 1#32 0#32 true false))
      = okWith 0x3030303030303030303030303030303130303030303030303030303030303030#256 := by decide

/-! ## Advancement (A12, A14, and the top bits A6, A7) -/

theorem test_next : wordsOf (exec .next seeded) = some seededNext := by decide
theorem test_next_top_bits :
    wordsOf (exec .next (st 0x12345678#32 0x9ABCDEF0#32 0x0FEDCBA9#32 0x87654321#32 true false))
      = some ⟨0x9ABCDEF0#32, 0x0FEDCBA9#32, 0x87654321#32, 0x37524223#32⟩ := by decide
theorem test_nextU32 : answer (exec .nextU32 seeded) = okWith 0xDBFFF5AA#256 := by decide
theorem test_nextStep_logical_shifts :
    nextStep ⟨0x80000000#32, 0#32, 0#32, 0#32⟩ = ⟨0#32, 0#32, 0#32, 0x80800000#32⟩ ∧
    nextStep ⟨0#32, 0#32, 0#32, 0x80000000#32⟩ = ⟨0#32, 0#32, 0x80000000#32, 0x80001000#32⟩ := by decide

/-! ## Bounded output (B1.6, G1.8, G1.10, X7, X8) -/

theorem test_nextBounded_unsigned :
    answer (exec (.nextBounded 0x80000000#32) seeded) = okWith 0x5BFFF5AA#256 := by decide
theorem test_nextBounded_zero :
    answer (exec (.nextBounded 0#32) seeded) = some (some .divZero, true, true) ∧
    wordsOf (exec (.nextBounded 0#32) seeded) = some seededNext := by decide
theorem test_nextRanged_wraps :
    answer (exec (.nextRanged 0x7FFFFFFE#32 0x80000008#32) seeded) = okWith 0x80000002#256 := by decide
theorem test_nextRanged_end_below_start :
    answer (exec (.nextRanged 5#32 3#32) seeded) = okWith 0xDBFFF5AF#256 := by decide

/-! ## Steps: the order of the checks, the halted engine, reset (X3, X5, X8, X10, X11) -/

theorem test_step_uninit_before_divZero :
    answer (step (State.reset.withFetchWord 136 0xA00000000000000000000000000000000))
      = some (some .uninit, false, false) := by decide
theorem test_step_illegal_before_uninit :
    answer (step (State.reset.withFetchWord 136 0)) = some (some .illegal, false, false) := by decide
theorem test_step_divZero :
    answer (step (seeded.withFetchWord 136 0xB00000000000000000000000500000005))
      = some (some .divZero, true, true) := by decide
theorem test_step_halted :
    step (halted.withFetchWord 136 0x100000000000000000000000000000001) = .fault .halted := rfl
theorem test_step_reset_ends_halt :
    answer (step { halted with host := [.reset] }) = some (none, false, false) := by decide
theorem test_step_first_after_reset :
    wordsOf (step (State.reset.withFetchWord 136 0x100000000000000000000000000000001)) = some seeded.regs := by decide
theorem test_step_idle : answer (step seeded) = some (none, true, false) := by decide

/-! ## The assembler (30_encoding.md rules R63 to R65) -/

theorem test_asm_negative_and_comment :
    Asm.assembleText ['N','e','x','t','R','a','n','g','e','d',' ','-','5',',',' ','5',' ',';','!']
      = some 0xB000000000000000000000005FFFFFFFB#132 := by decide
theorem test_asm_default_end :
    Asm.assembleText ['N','E','X','T','R','A','N','G','E','D',' ','*',',','0','x','F']
      = some 0xB00000000000000000000000F80000000#132 := by decide
theorem test_asm_word_needs_33_digits : Asm.assembleText ['.','w','o','r','d',' ','0','x','0'] = none := by decide
theorem test_asm_unknown_mnemonic : Asm.assembleText ['N','O','P'] = none := by decide

/-! ## Witnesses: for each statement with hypotheses, concrete values that meet them together, each clause at a boundary -/

/-- The host presents this word to the engine, then another, and no more. -/
def presenting (s : State) (c : CmdWord) : State := { s with host := [.command c, .reset] }

theorem witness_PrimitivesAreModularArithmetic : 31 ≤ 31 ∧ (1#32 : Word) ≠ 0#32 := by decide

/-- Formats `N`, `A` and `AB`: words that differ in every ignored bit and in no other. -/
theorem witness_UnnamedOperandBitsAreIgnored :
    (let c := 0x800000000000000000000000000000000#132
     let d := 0x8FFFFFFFFFFFFFFFFFFFFFFFFFFFFFFFF#132
     c.extractLsb' 128 4 = d.extractLsb' 128 4 ∧ c.extractLsb' 128 4 ∈ [0x4#4, 0x5#4, 0x6#4, 0x8#4, 0x9#4]) ∧
    (let c := 0xA00000000000000000000000080000001#132
     let d := 0xAFFFFFFFFFFFFFFFFFFFFFFFF80000001#132
     c.extractLsb' 128 4 = d.extractLsb' 128 4 ∧ c.extractLsb' 128 4 ∈ [0x1#4, 0xA#4] ∧
       c.extractLsb' 0 32 = d.extractLsb' 0 32) ∧
    (let c := 0xB00000000000000008000000080000001#132
     let d := 0xBFFFFFFFFFFFFFFFF8000000080000001#132
     c.extractLsb' 128 4 = d.extractLsb' 128 4 ∧ c.extractLsb' 128 4 = 0xB#4 ∧
       c.extractLsb' 0 64 = d.extractLsb' 0 64) := by decide

theorem witness_EncodeOfDecodeClearsIgnoredBits :
    decode 0x1FFFFFFFFFFFFFFFFFFFFFFFFDEADBEEF#132 = .instr (.fromSeed 0xDEADBEEF#32) := by decide

theorem witness_ResetActionClearsFlags :
    ({ halted with host := [.reset] } : State).host = .reset :: [] := rfl

theorem witness_StepRunsTheDecodedInstruction :
    (presenting seeded 0x800000000000000000000000000000000#132).host
      = .command 0x800000000000000000000000000000000#132 :: [.reset] ∧
    decode 0x800000000000000000000000000000000#132 = .instr .next := by decide

/-- Both ends of the reserved opcodes, on an engine that is not initialised and on one that is. -/
theorem witness_ReservedOpcodeIsIllegal :
    ((presenting State.reset 0#132).host = .command 0#132 :: [.reset] ∧ State.reset.fault = false ∧
      (0#132 : CmdWord).extractLsb' 128 4 ∈ [0x0#4, 0x7#4, 0xC#4, 0xD#4, 0xE#4, 0xF#4]) ∧
    ((presenting seeded 0xF00000000000000000000000000000001#132).fault = false ∧
      (0xF00000000000000000000000000000001#132 : CmdWord).extractLsb' 128 4
        ∈ [0x0#4, 0x7#4, 0xC#4, 0xD#4, 0xE#4, 0xF#4]) := by decide

theorem witness_UninitialisedCommandsAreRefused :
    ((Instr.nextBounded 0#32).isInspection || (Instr.nextBounded 0#32).isGeneration) = true ∧
    (Instr.getState32.isInspection || Instr.getState32.isGeneration) = true ∧
    (Instr.fromSeed 0#32).isConstructor = true ∧ State.reset.fault = false ∧ State.reset.init = false := by decide

/-- A halted engine that meets a command, one that meets nothing, one that meets a reset. -/
theorem witness_HaltedEngineHasOnlyReset :
    halted.fault = true ∧ (∀ rest, halted.host ≠ .reset :: rest) ∧
    (∀ rest, (presenting halted 0#132).host ≠ .reset :: rest) ∧
    ({ halted with host := [.reset] } : State).host = .reset :: [] := by
  refine ⟨rfl, ?_, ?_, rfl⟩ <;> intro rest h <;> cases h

theorem witness_IdleEngineKeepsItsState : seeded.host = [] ∧ seeded.fault = false := by decide

/-- Every branch: halted, reserved, not initialised, division by zero, `OK`. -/
theorem witness_ChecksApplyInOrder :
    (presenting halted 0#132).fault = true ∧
    ((presenting seeded 0#132).fault = false ∧ decode 0#132 = .reserved 0#4) ∧
    (Instr.next.isConstructor = false ∧ State.reset.init = false) ∧
    ((Instr.nextRanged 5#32 5#32).dividesByZero = true ∧ seeded.init = true) ∧
    ((Instr.nextRanged 5#32 4#32).dividesByZero = false ∧ (Instr.fromSeed 0#32).isConstructor = true) := by decide

theorem witness_EveryAcceptedCommandIsAnswered :
    (presenting seeded 0#132).host = .command 0#132 :: [.reset] ∧ cmdReady (presenting seeded 0#132) = true := by decide

/-- The opcodes of the encoding clauses of the constructors and the inspection commands, with every operand bit 1. -/
theorem witness_encoding_clauses :
    (0x1FFFFFFFFFFFFFFFFFFFFFFFFFFFFFFFF#132 : CmdWord).extractLsb' 128 4 = 0x1#4 ∧
    (0x2FFFFFFFFFFFFFFFFFFFFFFFFFFFFFFFF#132 : CmdWord).extractLsb' 128 4 = 0x2#4 ∧
    (0x3FFFFFFFFFFFFFFFFFFFFFFFFFFFFFFFF#132 : CmdWord).extractLsb' 128 4 = 0x3#4 ∧
    (0x4FFFFFFFFFFFFFFFFFFFFFFFFFFFFFFFF#132 : CmdWord).extractLsb' 128 4 = 0x4#4 ∧
    (0x5FFFFFFFFFFFFFFFFFFFFFFFFFFFFFFFF#132 : CmdWord).extractLsb' 128 4 = 0x5#4 ∧
    (0x6FFFFFFFFFFFFFFFFFFFFFFFFFFFFFFFF#132 : CmdWord).extractLsb' 128 4 = 0x6#4 := by decide

/-- The same for the generation commands. -/
theorem witness_encoding_clauses_generation :
    (0x8FFFFFFFFFFFFFFFFFFFFFFFFFFFFFFFF#132 : CmdWord).extractLsb' 128 4 = 0x8#4 ∧
    (0x9FFFFFFFFFFFFFFFFFFFFFFFFFFFFFFFF#132 : CmdWord).extractLsb' 128 4 = 0x9#4 ∧
    (0xAFFFFFFFFFFFFFFFFFFFFFFFFFFFFFFFF#132 : CmdWord).extractLsb' 128 4 = 0xA#4 ∧
    (0xBFFFFFFFFFFFFFFFFFFFFFFFFFFFFFFFF#132 : CmdWord).extractLsb' 128 4 = 0xB#4 := by decide

/-- The states of the effect clauses of FromSeedExpandsTheSeed, FromState64LoadsTheHalves, FromState32LoadsTheWords,
GetState32ReadsTheWords, GetState64ReadsTheHalves, FullStateSpellsTheState, NextTakesOneStep, NextU32EqualsNext,
NextBoundedReducesModuloMax, NextRangedMapsIntoTheRange: running and initialised, running and not initialised. -/
theorem witness_effect_clauses :
    (seeded.fault = false ∧ seeded.init = true) ∧ (State.reset.fault = false ∧ State.reset.init = false) := by decide

/-- The first and the last character of `FULLSTATE`. -/
theorem witness_FullStateSpellsTheState : seeded.init = true ∧ seeded.fault = false ∧ 0 < 32 ∧ 31 < 32 := by decide

theorem witness_ConstructorForgetsThePast :
    (Instr.fromSeed 0#32).isConstructor = true ∧ State.reset.fault = false ∧ seeded.fault = false ∧
    State.reset.regs ≠ seeded.regs := by decide

theorem witness_SeederIsInjectiveAndNeverZero : seedWords 7#32 = seedWords (3#32 + 4#32) := by decide

theorem witness_InspectionIsIdempotent : Instr.fullState.isInspection = true ∧ seeded.fault = false := by decide

theorem witness_SavedStateIsRestored :
    seeded.fault = false ∧ seeded.init = true ∧ State.reset.fault = false := by decide

/-- A generation and an inspection command in the all-zero state, the first one `NEXT`, initialised. -/
theorem witness_ZeroIsTheOnlyFixedPoint :
    (st 0#32 0#32 0#32 0#32 true false).regs = ⟨0#32, 0#32, 0#32, 0#32⟩ ∧ Instr.next.isConstructor = false ∧
    (∃ t, exec .next (st 0#32 0#32 0#32 0#32 true false) = .next t) ∧
    (∃ t, exec (.nextBounded 0#32) (st 0#32 0#32 0#32 0#32 true false) = .next t) ∧
    (∃ t, exec .fullState (st 0#32 0#32 0#32 0#32 true false) = .next t) ∧
    (st 0#32 0#32 0#32 0#32 true false).init = true := ⟨rfl, rfl, ⟨_, rfl⟩, ⟨_, rfl⟩, ⟨_, rfl⟩, rfl⟩

theorem witness_FourOutputsDetermineTheState :
    ∀ j, 1 ≤ j → j ≤ 4 → (stepsFrom seededNext (2 + j)).w = (stepsFrom (nextStep seeded.regs) (2 + j)).w := by
  intro j h1 h4
  have : j = 1 ∨ j = 2 ∨ j = 3 ∨ j = 4 := by omega
  rcases this with rfl | rfl | rfl | rfl <;> decide

/-- The three branches of the two bounded commands, with the zero and the nonzero divisor beside each other. -/
theorem witness_bounded_branches :
    State.reset.init = false ∧ seeded.init = true ∧ (0#32 : Word) = 0#32 ∧ (1#32 : Word) ≠ 0#32 ∧
    (5#32 : Word) = 5#32 ∧ (5#32 : Word) ≠ 6#32 := by decide

theorem witness_DivisionByZeroTakesTheFault :
    seeded.fault = false ∧ seeded.init = true ∧ (Instr.nextBounded 0#32).dividesByZero = true ∧
    (Instr.nextRanged 0x80000000#32 0x80000000#32).dividesByZero = true := by decide

/-- The last residue that is hit once more and the first that is not, for `max = 6`. -/
theorem witness_BoundedResiduesAreCounted :
    (6#32 : Word) ≠ 0#32 ∧ (3#32 : Word).toNat < (6#32 : Word).toNat ∧ (4#32 : Word).toNat < (6#32 : Word).toNat ∧
    (3#32 : Word).toNat < 2 ^ 32 % (6#32 : Word).toNat ∧ ¬(4#32 : Word).toNat < 2 ^ 32 % (6#32 : Word).toNat := by decide

/-- The smallest and the largest power, and a `max` just above the output. -/
theorem witness_BoundedByPowerOfTwoKeepsLowBits :
    seeded.fault = false ∧ seeded.init = true ∧ 0 < 32 ∧ 31 < 32 ∧
    (nextStep seeded.regs).w.toNat < (0xDBFFF5AB#32 : Word).toNat := by decide

/-- The narrowest and the widest interval. -/
theorem witness_RangedResultLiesInTheInterval :
    seeded.fault = false ∧ seeded.init = true ∧ signed32 0xFFFFFFFF#32 < signed32 0#32 ∧
    signed32 0x80000000#32 < signed32 0x7FFFFFFF#32 := by decide

/-- The ordinary output, and the largest one (vector A13). -/
theorem witness_DefaultRangeTurnsTheTopBit :
    seeded.fault = false ∧ seeded.init = true ∧ (nextStep seeded.regs).w ≠ 0xFFFFFFFF#32 ∧
    (nextStep ⟨0#32, 0#32, 0#32, 0xFFFFE000#32⟩).w = 0xFFFFFFFF#32 := by decide

theorem witness_RangedShiftsWithItsOperands :
    ∃ t, exec (.nextRanged 0xFFFFFFFB#32 5#32) seeded = .next t ∧
      t.rsp = some (.ok ((0xFFFFFFFF#32 : Word).setWidth 256)) := ⟨_, rfl, by decide⟩

/-- One command of each class that answers a next state. -/
theorem witness_InstructionsKeepTheirFrame :
    (∃ t, exec (.fromSeed 0#32) State.reset = .next t) ∧ (Instr.fromSeed 0#32).isConstructor = true ∧
    (∃ t, exec .getState64 seeded = .next t) ∧ Instr.getState64.isInspection = true ∧
    (∃ t, exec (.nextBounded 0#32) seeded = .next t) ∧ (Instr.nextBounded 0#32).isGeneration = true :=
  ⟨⟨_, rfl⟩, rfl, ⟨_, rfl⟩, rfl, ⟨_, rfl⟩, rfl⟩

theorem witness_OnlyThreeThingsChangeTheWords :
    ∃ t, step (presenting seeded 0x800000000000000000000000000000000#132) = .next t ∧ t.regs ≠ seeded.regs :=
  ⟨_, rfl, by decide⟩

/-- Each clause: `INIT` kept, `INIT` set, `FAULT` set. -/
theorem witness_FlagsAreStickyAndSetOnlyByTheirCommands :
    (∃ t, step (presenting seeded 0x800000000000000000000000000000000#132) = .next t ∧ seeded.init = true) ∧
    (∃ t, step (presenting State.reset 0x100000000000000000000000000000000#132) = .next t ∧ State.reset.init = false ∧
      t.init = true) ∧
    (∃ t, step (presenting seeded 0xA00000000000000000000000000000000#132) = .next t ∧ seeded.fault = false ∧
      t.fault = true) ∧
    (∀ c rest, (presenting seeded c).host ≠ .reset :: rest) :=
  ⟨⟨_, rfl, rfl⟩, ⟨_, rfl, rfl, rfl⟩, ⟨_, rfl, rfl, rfl⟩, fun c rest h => by cases h⟩

theorem witness_StepKeepsTheFlagInvariant :
    (presenting seeded 0xA00000000000000000000000000000000#132).Inv ∧
    ∃ t, step (presenting seeded 0xA00000000000000000000000000000000#132) = .next t := by
  refine ⟨⟨?_, ?_, ?_, ?_⟩, ⟨_, rfl⟩⟩ <;> simp [presenting, seeded, st, State.reset]

/-- Two engines that differ in every word while `INIT = 0`, and two initialised ones with the same words. -/
theorem witness_UnspecifiedWordsNeverEscape :
    State.Agree (st 1#32 2#32 3#32 4#32 false false) (st 5#32 6#32 7#32 8#32 false false) ∧
    State.Agree seeded { seeded with freeCount := 9 } :=
  ⟨⟨rfl, rfl, rfl, rfl, fun h => by cases h⟩, ⟨rfl, rfl, rfl, rfl, fun _ => rfl⟩⟩

end Sys2Proof.Tests
end

section
/-! SUPPORT. The statements of 00_scope.md: the 32-bit primitives as integer arithmetic (rule R8), and that a step runs the
instruction of the presented word (rule R11). -/

namespace Sys2Proof

/-- No instruction is ill formed: every bit pattern of an operand is legal (30_encoding.md rules R54, R56). -/
@[simp] theorem Instr.wf_eq_true (i : Instr) : i.wf = true := by
  cases i <;> rfl

namespace Machine

theorem toNat_add32 (a b : Word) : (add32 a b).toNat = (a.toNat + b.toNat) % 2 ^ 32 := BitVec.toNat_add a b

/-- No borrow. -/
theorem toNat_sub32_of_le {a b : Word} (h : b.toNat ≤ a.toNat) : (sub32 a b).toNat = a.toNat - b.toNat :=
  BitVec.toNat_sub_of_le h

/-- The borrow adds the modulus once. -/
theorem toNat_sub32_of_lt {a b : Word} (h : a.toNat < b.toNat) :
    (sub32 a b).toNat = a.toNat + 2 ^ 32 - b.toNat := by
  have hsub : (sub32 a b).toNat = (2 ^ 32 - b.toNat + a.toNat) % 2 ^ 32 := BitVec.toNat_sub a b
  have hb : b.toNat < 2 ^ 32 := b.isLt
  rw [hsub, Nat.mod_eq_of_lt (by omega)]
  omega

theorem toNat_sub32 (a b : Word) :
    (sub32 a b).toNat = if b.toNat ≤ a.toNat then a.toNat - b.toNat else a.toNat + 2 ^ 32 - b.toNat := by
  split
  case isTrue h => exact toNat_sub32_of_le h
  case isFalse h => exact toNat_sub32_of_lt (Nat.lt_of_not_le h)

theorem toNat_mul32 (a b : Word) : (mul32 a b).toNat = (a.toNat * b.toNat) % 2 ^ 32 := BitVec.toNat_mul a b

theorem toNat_shl32 (a : Word) (n : Nat) : (shl32 a n).toNat = (a.toNat * 2 ^ n) % 2 ^ 32 := by
  rw [shl32, BitVec.toNat_shiftLeft, Nat.shiftLeft_eq]

theorem toNat_shr32 (a : Word) (n : Nat) : (shr32 a n).toNat = a.toNat / 2 ^ n := by
  rw [shr32, BitVec.toNat_ushiftRight, Nat.shiftRight_eq_div_pow]

theorem getLsbD_xor32 (a b : Word) (k : Nat) : (xor32 a b).getLsbD k = (a.getLsbD k ^^ b.getLsbD k) :=
  BitVec.getLsbD_xor

theorem toNat_urem32 (a b : Word) : (urem32 a b).toNat = a.toNat % b.toNat := BitVec.toNat_umod

theorem toNat_urem32_eq_sub (a b : Word) : (urem32 a b).toNat = a.toNat - b.toNat * (a.toNat / b.toNat) := by
  rw [toNat_urem32, Nat.mod_eq_sub_mul_div]

theorem toNat_urem32_lt (a : Word) {b : Word} (h : b ≠ 0#32) : (urem32 a b).toNat < b.toNat := by
  rw [toNat_urem32]
  exact Nat.mod_lt _ (BitVec.toNat_pos_of_ne_zero h)

/-- Settles O1: one lemma for each primitive; only the bound on the remainder needs `b ≠ 0`. -/
theorem primitivesAreModularArithmetic : Obligations.PrimitivesAreModularArithmetic := fun a b =>
  ⟨toNat_add32 a b, toNat_sub32 a b, toNat_mul32 a b, fun n _ => toNat_shl32 a n, fun n _ => toNat_shr32 a n,
    getLsbD_xor32 a b, fun hb => ⟨toNat_urem32_eq_sub a b, toNat_urem32_lt a hb⟩⟩

/-- A presented word that decodes to an instruction: the step is the instruction's meaning. -/
theorem step_command_instr {s : State} {c : CmdWord} {rest : List HostAction} {i : Instr}
    (hhost : s.host = .command c :: rest) (hdec : decode c = .instr i) : step s = exec i (s.withHost rest) := by
  rw [step_command hhost, runCommand_instr hdec]

/-- Settles O11, by the step's rule for a presented command. -/
theorem stepRunsTheDecodedInstruction : Obligations.StepRunsTheDecodedInstruction :=
  fun _ _ _ i hhost hdec => ⟨i.wf_eq_true, step_command_instr hhost hdec⟩

end Machine
end Sys2Proof
end

section
/-! SUPPORT. The statements of 10_state.md: the two views of the words (rules R22, R23), STATUS and the pins (rule R29), what
reset leaves (rule R34), and which command reads and writes which state (rule R26). -/

namespace Sys2Proof.Machine

/-! ## The two views -/

/-- Two words side by side are the low one widened OR the high one widened and shifted. -/
theorem append_32_32_eq_or (hi lo : Word) :
    (hi ++ lo : DWord) = lo.setWidth 64 ||| (hi.setWidth 64 <<< 32) := by
  have h : (hi ++ lo : DWord).setWidth 64 = (hi.setWidth 64 <<< 32) ||| lo.setWidth 64 :=
    BitVec.setWidth_append_eq_shiftLeft_setWidth_or
  rw [BitVec.or_comm, ← h, BitVec.setWidth_eq]

/-- `S` is `s1` above `s0`. -/
theorem stateVec_eq_append (r : Words) : stateVec r = s1Of r ++ s0Of r :=
  (BitVec.append_assoc (x₁ := r.w) (x₂ := r.z) (x₃ := r.y ++ r.x)).symm

/-- Each word is the low or the high part of its half. -/
theorem unpack_pack (r : Words) : unpack64to32 (s0Of r) (s1Of r) = r := by
  have low : ∀ hi lo : Word, (hi ++ lo : DWord).extractLsb' 0 32 = lo := fun _ _ => BitVec.extractLsb'_append_eq_right
  have high : ∀ hi lo : Word, (hi ++ lo : DWord).extractLsb' 32 32 = hi := fun _ _ => BitVec.extractLsb'_append_eq_left
  simp only [unpack64to32, s0Of, s1Of, low, high]

/-- Each half is its high part above its low part. -/
theorem pack_unpack (s0 s1 : DWord) : pack32to64 (unpack64to32 s0 s1) = (s0, s1) := by
  have whole : ∀ d : DWord, (d.extractLsb' 32 32 ++ d.extractLsb' 0 32 : DWord) = d :=
    fun d => BitVec.extractLsb'_append_extractLsb' (w := 32) (len := 32) (x := d)
  simp only [pack32to64, unpack64to32, s0Of, s1Of, whole]

/-- Settles O2: a half is an append of two words, read as an OR, and cut apart again where it was joined. -/
theorem viewsAreMutualInverses : Obligations.ViewsAreMutualInverses :=
  ⟨fun r => ⟨append_32_32_eq_or r.y r.x, append_32_32_eq_or r.w r.z, stateVec_eq_append r, unpack_pack r⟩, pack_unpack⟩

/-! ## STATUS, the pins, and what reset leaves -/

@[simp] theorem stInit_getLsbD_zero (s : State) : (stInit s).getLsbD 0 = s.init := by
  simp [stInit]

@[simp] theorem stFault_getLsbD_zero (s : State) : (stFault s).getLsbD 0 = s.fault := by
  simp [stFault]

/-- The low bit of STATUS is pin `st_init`. -/
@[simp] theorem statusReg_getLsbD_zero (s : State) : (statusReg s).getLsbD 0 = s.init :=
  (BitVec.getLsbD_append (x := stFault s) (y := stInit s)).trans (stInit_getLsbD_zero s)

/-- The high bit of STATUS is pin `st_fault`. -/
@[simp] theorem statusReg_getLsbD_one (s : State) : (statusReg s).getLsbD 1 = s.fault :=
  (BitVec.getLsbD_append (x := stFault s) (y := stInit s)).trans (stFault_getLsbD_zero s)

/-- Settles O19: the pins are the flags, and STATUS is the two pins side by side. -/
theorem statusShowsTheFlags : Obligations.StatusShowsTheFlags := fun s =>
  ⟨statusReg_getLsbD_zero s, statusReg_getLsbD_one s, stInit_getLsbD_zero s, stFault_getLsbD_zero s⟩

theorem statusReg_of_flags_clear {s : State} (hinit : s.init = false) (hfault : s.fault = false) :
    statusReg s = 0#2 := by
  simp [statusReg, stInit, stFault, hinit, hfault]

theorem cmdReady_of_running {s : State} (h : s.fault = false) : cmdReady s = true := by
  simp [cmdReady, h]

theorem rspValid_of_rsp_none {s : State} (h : s.rsp = none) : rspValid s = false := by
  simp [rspValid, h]

/-- Settles O9: STATUS, the response port and readiness follow from the fields of the reset state. -/
theorem resetLeavesFlagsClear : Obligations.ResetLeavesFlagsClear :=
  ⟨State.reset_init, State.reset_fault, rspValid_of_rsp_none State.reset_rsp,
    statusReg_of_flags_clear State.reset_init State.reset_fault, cmdReady_of_running State.reset_fault⟩

/-! ## The frame of an instruction -/

/-! `deliver` leaves everything but the response and, where there is no value, `FAULT`. -/

@[simp] theorem deliver_regs (out : Option Word) (s : State) : (deliver out s).regs = s.regs := by
  cases out <;> rfl
@[simp] theorem deliver_init (out : Option Word) (s : State) : (deliver out s).init = s.init := by
  cases out <;> rfl
@[simp] theorem deliver_host (out : Option Word) (s : State) : (deliver out s).host = s.host := by
  cases out <;> rfl
@[simp] theorem deliver_freeCount (out : Option Word) (s : State) : (deliver out s).freeCount = s.freeCount := by
  cases out <;> rfl
@[simp] theorem deliver_fault (out : Option Word) (s : State) :
    (deliver out s).fault = (s.fault || out.isNone) := by
  cases out <;> simp [deliver]

/-- The constructors are the commands that load words. -/
theorem isConstructor_eq (i : Instr) : i.isConstructor = (builtWords i).isSome := by cases i <;> rfl

theorem classes_of_built {i : Instr} {r : Words} (h : builtWords i = some r) :
    i.isConstructor = true ∧ i.isInspection = false ∧ i.isGeneration = false := by
  cases i with
  | fromSeed | fromState64 | fromState32 => exact ⟨rfl, rfl, rfl⟩
  | getState32 | getState64 | fullState | next | nextU32 | nextBounded | nextRanged => cases h

theorem classes_of_inspected {i : Instr} {f : Words → Res} (h : inspectedValue i = some f) :
    i.isConstructor = false ∧ i.isInspection = true ∧ i.isGeneration = false := by
  cases i with
  | getState32 | getState64 | fullState => exact ⟨rfl, rfl, rfl⟩
  | fromSeed | fromState64 | fromState32 | next | nextU32 | nextBounded | nextRanged => cases h

theorem classes_of_generated {i : Instr} {f : Word → Option Word} (h : generatedValue i = some f) :
    i.isConstructor = false ∧ i.isInspection = false ∧ i.isGeneration = true := by
  cases i with
  | next | nextU32 | nextBounded | nextRanged => exact ⟨rfl, rfl, rfl⟩
  | fromSeed | fromState64 | fromState32 | getState32 | getState64 | fullState => cases h

/-- `delta` is 0 exactly when the two operands are equal. -/
theorem sub32_eq_zero_iff {a b : Word} : sub32 a b = 0#32 ↔ b = a := by
  rw [sub32, BitVec.sub_eq_iff_eq_add, BitVec.zero_add, eq_comm]

/-- A generation command has no value exactly on the operands of 60_exceptions.md rule R111, whatever `w` is. -/
theorem generatedValue_isNone {i : Instr} {f : Word → Option Word} (h : generatedValue i = some f) (v : Word) :
    (f v).isNone = i.dividesByZero := by
  cases i with
  | fromSeed | fromState64 | fromState32 | getState32 | getState64 | fullState => cases h
  | next | nextU32 => cases h; rfl
  | nextBounded max =>
    cases h
    by_cases hm : max = 0#32 <;> simp [Instr.dividesByZero, hm]
  | nextRanged start stop =>
    cases h
    by_cases he : start = stop <;> simp [Instr.dividesByZero, sub32_eq_zero_iff, he]

/-- Settles O46: the four things an instruction can do, each with the class of the commands that do it. -/
theorem instructionsKeepTheirFrame : Obligations.InstructionsKeepTheirFrame := by
  intro i s t h
  obtain ⟨-, ⟨r, hr, rfl⟩ | ⟨-, f, hf, rfl⟩ | ⟨hi, f, hf, rfl⟩ | ⟨hi, hb, rfl⟩⟩ := exec_cases h
  · obtain ⟨-, hinsp, hgen⟩ := classes_of_built hr
    simp [hinsp, hgen]
  · obtain ⟨hcons, -, hgen⟩ := classes_of_inspected hf
    simp [hcons, hgen]
  · obtain ⟨hcons, hinsp, -⟩ := classes_of_generated hf
    simp [hcons, hinsp, hi, generatedValue_isNone hf]
  · have hcons : i.isConstructor = false := by rw [isConstructor_eq, hb, Option.isSome_none]
    simp [hcons, hi]

/-- An instruction that changes the words is a constructor, or a generation command that took one step. -/
theorem exec_changes_words {i : Instr} {s t : State} (h : exec i s = .next t) (hne : t.regs ≠ s.regs) :
    i.isConstructor = true ∨ (i.isGeneration = true ∧ s.init = true ∧ t.regs = nextStep s.regs) := by
  obtain ⟨-, ⟨r, hr, rfl⟩ | ⟨-, f, hf, rfl⟩ | ⟨hi, f, hf, rfl⟩ | ⟨-, -, rfl⟩⟩ := exec_cases h
  · obtain ⟨hcons, -, -⟩ := classes_of_built hr
    exact .inl hcons
  · exact absurd (State.respond_regs ..) hne
  · obtain ⟨-, -, hgen⟩ := classes_of_generated hf
    exact .inr ⟨hgen, hi, by simp⟩
  · exact absurd (State.respond_regs ..) hne

/-- Settles O47: of what a step can do, refusing a reserved opcode and idling keep the words, and an instruction changes
them as `exec_changes_words` says. -/
theorem onlyThreeThingsChangeTheWords : Obligations.OnlyThreeThingsChangeTheWords := by
  intro s t h hne
  obtain ⟨c, rest, i, hhost, hdec, hexec⟩ | ⟨c, rest, op, -, -, -, rfl⟩ | ⟨rest, hhost, -⟩ | ⟨-, -, rfl⟩ := step_cases h
  · exact .inr ⟨c, rest, i, hhost, hdec, exec_changes_words (s := s.withHost rest) hexec hne⟩
  · exact absurd (State.respond_regs ..) hne
  · exact .inl ⟨rest, hhost⟩
  · exact absurd (State.noResponse_regs s) hne

end Sys2Proof.Machine
end

section
/-! SUPPORT. The statement of 20_memory.md: an inspection command changes nothing but the response, so it can be repeated
(rule R43). -/

namespace Sys2Proof.Machine

/-- The inspection commands are the commands that read a value. -/
theorem isInspection_eq (i : Instr) : i.isInspection = (inspectedValue i).isSome := by cases i <;> rfl

/-- The last response is the one that stands on the port. -/
@[simp] theorem State.respond_respond (s : State) (r r' : Response) : (s.respond r).respond r' = s.respond r' := rfl

/-- The response of an inspection command is a function of the words and `INIT`, and is all that it writes
(41_inspect.md rules R80 to R82, 60_exceptions.md rule R118). -/
theorem inspect_of_running {value : Words → Res} {s : State} (h : s.fault = false) :
    inspect value s = .next (s.respond (if s.init then .ok (value s.regs) else .uninit)) := by
  rw [inspect_eq_next_iff]
  cases hi : s.init <;> simp [h]

/-- Settles O30: the response is all that the first reading writes, and the second one does not depend on it. -/
theorem inspectionIsIdempotent : Obligations.InspectionIsIdempotent := by
  intro i s hinsp hrun
  rw [isInspection_eq, Option.isSome_iff_exists] at hinsp
  obtain ⟨f, hf⟩ := hinsp
  refine ⟨s.respond (if s.init then .ok (f s.regs) else .uninit), ?_, ?_, rfl, rfl, rfl⟩
  · rw [exec_inspected hf, inspect_of_running hrun]
  · rw [exec_inspected hf, inspect_of_running ((State.respond_fault ..).trans hrun), State.respond_respond,
      State.respond_init, State.respond_regs]

end Sys2Proof.Machine
end

section
/-! SUPPORT. The statements of 30_encoding.md: the formats and the opcode map (rules R52 to R56, R62), the worked encodings
(rule R65), the defaults of the assembler (rule R64), and the status codes (rules R57, R59). -/

namespace Sys2Proof

open Sys2Proof.Machine

/-! ## The operand field and its parts -/

/-- The operands of formats `A` and `AB` are the low bits of the command word itself. -/
theorem argWord_argField (c : CmdWord) {k : Nat} (h : 32 * k + 32 ≤ 128) :
    argWord (argField c) k = c.extractLsb' (32 * k) 32 :=
  BitVec.extractLsb'_extractLsb'_of_le h

theorem argDWord_argField (c : CmdWord) {k : Nat} (h : 64 * k + 64 ≤ 128) :
    argDWord (argField c) k = c.extractLsb' (64 * k) 64 :=
  BitVec.extractLsb'_extractLsb'_of_le h

theorem append_argDWord (arg : QWord) : argDWord arg 1 ++ argDWord arg 0 = arg :=
  BitVec.extractLsb'_append_extractLsb' (w := 64) (len := 64) (x := arg)

theorem append_argWord (arg : QWord) : argWord arg 1 ++ argWord arg 0 = argDWord arg 0 :=
  BitVec.extractLsb'_append_extractLsb'_eq_extractLsb' rfl

@[simp] theorem argDWord_append_zero (hi lo : DWord) : argDWord (hi ++ lo) 0 = lo :=
  BitVec.extractLsb'_append_eq_right

@[simp] theorem argDWord_append_one (hi lo : DWord) : argDWord (hi ++ lo) 1 = hi :=
  BitVec.extractLsb'_append_eq_left

/-- A word of the operand field is a word of the half in which it lies. -/
theorem extractLsb'_argDWord (arg : QWord) (k : Nat) {i : Nat} (h : i + 32 ≤ 64) :
    (argDWord arg k).extractLsb' i 32 = arg.extractLsb' (64 * k + i) 32 := by
  ext j hj
  have hlt : i + j < 64 := by omega
  simp [argDWord, hlt, Nat.add_assoc]

/-- Formats `D` and `Q` place the four words alike (30_encoding.md rule R53). -/
theorem unpack_argDWord (arg : QWord) :
    unpack64to32 (argDWord arg 0) (argDWord arg 1) = ⟨argWord arg 0, argWord arg 1, argWord arg 2, argWord arg 3⟩ := by
  simp [unpack64to32, argWord, extractLsb'_argDWord]

/-- The four words of an operand field, side by side, are the field. -/
theorem stateVec_argWord (arg : QWord) :
    stateVec ⟨argWord arg 0, argWord arg 1, argWord arg 2, argWord arg 3⟩ = arg := by
  have hpack := pack_unpack (argDWord arg 0) (argDWord arg 1)
  obtain ⟨hs0, hs1⟩ := Prod.mk.inj hpack
  rw [← unpack_argDWord, stateVec_eq_append, hs0, hs1, append_argDWord]

/-- Each of four words is read where it was placed. -/
theorem argWord_stateVec (r : Words) :
    (⟨argWord (stateVec r) 0, argWord (stateVec r) 1, argWord (stateVec r) 2, argWord (stateVec r) 3⟩ : Words) = r := by
  rw [← unpack_argDWord, stateVec_eq_append, argDWord_append_zero, argDWord_append_one, unpack_pack]

@[simp] theorem argWord_setWidth_zero (a : Word) : argWord (a.setWidth 128) 0 = a :=
  (BitVec.extractLsb'_setWidth_of_le (by decide)).trans BitVec.extractLsb'_eq_self

@[simp] theorem argWord_setWidth_append_zero (hi lo : Word) :
    argWord (BitVec.setWidth 128 (hi ++ lo : DWord)) 0 = lo :=
  (BitVec.extractLsb'_setWidth_of_le (by decide)).trans BitVec.extractLsb'_append_eq_right

@[simp] theorem argWord_setWidth_append_one (hi lo : Word) :
    argWord (BitVec.setWidth 128 (hi ++ lo : DWord)) 1 = hi :=
  (BitVec.extractLsb'_setWidth_of_le (by decide)).trans BitVec.extractLsb'_append_eq_left

/-- Low bits, widened again, are the low bits kept and the others cleared. -/
theorem setWidth_extractLsb'_zero (arg : QWord) (n : Nat) :
    (arg.extractLsb' 0 n).setWidth 128 = arg &&& (BitVec.allOnes n).setWidth 128 := by
  ext i hi
  simp [Bool.and_comm, BitVec.getLsbD_eq_getElem hi]

theorem setWidth_argWord_zero (arg : QWord) : (argWord arg 0).setWidth 128 = arg &&& 0xFFFFFFFF#128 :=
  setWidth_extractLsb'_zero arg 32

theorem setWidth_argDWord_zero (arg : QWord) : (argDWord arg 0).setWidth 128 = arg &&& 0xFFFFFFFFFFFFFFFF#128 :=
  setWidth_extractLsb'_zero arg 64

/-! ## The formats -/

/-- The instruction with its operands read from an operand field (30_encoding.md rule R53). -/
def Instr.readOperands : Instr → QWord → Instr
  | .fromSeed _, arg => .fromSeed (argWord arg 0)
  | .fromState64 _ _, arg => .fromState64 (argDWord arg 0) (argDWord arg 1)
  | .fromState32 _ _ _ _, arg => .fromState32 (argWord arg 0) (argWord arg 1) (argWord arg 2) (argWord arg 3)
  | .getState32, _ => .getState32
  | .getState64, _ => .getState64
  | .fullState, _ => .fullState
  | .next, _ => .next
  | .nextU32, _ => .nextU32
  | .nextBounded _, arg => .nextBounded (argWord arg 0)
  | .nextRanged _ _, arg => .nextRanged (argWord arg 0) (argWord arg 1)

@[simp] theorem opcode_readOperands (i : Instr) (arg : QWord) : opcode (i.readOperands arg) = opcode i := by
  cases i <;> rfl

/-- The operands that the instruction had before are forgotten. -/
@[simp] theorem readOperands_readOperands (i : Instr) (arg arg' : QWord) :
    (i.readOperands arg').readOperands arg = i.readOperands arg := by
  cases i <;> rfl

/-- Reading undoes writing: each operand stands in the field where its format reads it (30_encoding.md rule R53). -/
@[simp] theorem readOperands_operandField (i : Instr) : i.readOperands (operandField i) = i := by
  cases i with
  | getState32 | getState64 | fullState | next | nextU32 => rfl
  | fromSeed | nextBounded | nextRanged | fromState64 => simp [Instr.readOperands, operandField]
  | fromState32 x y z w =>
    exact congrArg (fun r : Words => Instr.fromState32 r.x r.y r.z r.w) (argWord_stateVec ⟨x, y, z, w⟩)

/-- Writing undoes reading, but for the bits that the format does not name, which are written 0 (30_encoding.md rules R53,
R54). -/
theorem operandField_readOperands (i : Instr) (arg : QWord) :
    operandField (i.readOperands arg) = arg &&& operandMask i := by
  cases i with
  | getState32 | getState64 | fullState | next | nextU32 => exact BitVec.and_zero.symm
  | fromSeed | nextBounded => exact setWidth_argWord_zero arg
  | nextRanged => exact (congrArg _ (append_argWord arg)).trans (setWidth_argDWord_zero arg)
  | fromState64 => exact (append_argDWord arg).trans BitVec.and_allOnes.symm
  | fromState32 => exact (stateVec_argWord arg).trans BitVec.and_allOnes.symm

/-- The bits that the format does not name are not read (30_encoding.md rule R54). -/
theorem readOperands_and_operandMask (i : Instr) (arg : QWord) :
    i.readOperands (arg &&& operandMask i) = i.readOperands arg := by
  rw [← operandField_readOperands, ← readOperands_readOperands i _ arg, readOperands_operandField]

/-! ## The opcode map -/

/-- The six opcodes without an instruction (30_encoding.md rule R56). -/
abbrev reservedOpcodes : List (BitVec 4) := [0x0#4, 0x7#4, 0xC#4, 0xD#4, 0xE#4, 0xF#4]

/-- The ten rows of the map: a word with the opcode of an instruction is that instruction, with the operands of the word
(30_encoding.md rule R55). -/
theorem decode_of_opcode {c : CmdWord} {i : Instr} (h : opField c = opcode i) :
    decode c = .instr (i.readOperands (argField c)) := by
  unfold decode
  rw [h]
  cases i <;> rfl

theorem decode_of_reserved {c : CmdWord} (h : opField c ∈ reservedOpcodes) : decode c = .reserved (opField c) := by
  unfold decode
  generalize opField c = op at h
  fin_cases h <;> rfl

/-- One instruction of each opcode. -/
def instrOfEachOpcode : List Instr :=
  [.fromSeed 0, .fromState64 0 0, .fromState32 0 0 0 0, .getState32, .getState64, .fullState, .next, .nextU32,
    .nextBounded 0, .nextRanged 0 0]

/-- Every opcode that is not reserved has an instruction. -/
theorem exists_opcode_eq {op : BitVec 4} (h : op ∉ reservedOpcodes) : ∃ i, opcode i = op := by
  have hall : ∀ op : BitVec 4, op ∉ reservedOpcodes → ∃ i ∈ instrOfEachOpcode, opcode i = op := by decide
  obtain ⟨i, -, hi⟩ := hall op h
  exact ⟨i, hi⟩

/-- What decodes to an instruction: a word with its opcode that holds its operands. -/
theorem decode_eq_instr_iff {c : CmdWord} {i : Instr} :
    decode c = .instr i ↔ opField c = opcode i ∧ i.readOperands (argField c) = i := by
  constructor
  · intro h
    by_cases hres : opField c ∈ reservedOpcodes
    · rw [decode_of_reserved hres] at h
      cases h
    · obtain ⟨j, hj⟩ := exists_opcode_eq hres
      rw [decode_of_opcode hj.symm] at h
      cases h
      simp [hj]
  · rintro ⟨hop, hread⟩
    rw [decode_of_opcode hop, hread]

/-- Settles O6: the two fields of the word are those that were put together, and reading undoes writing. -/
theorem decodeOfEncodeIsIdentity : Obligations.DecodeOfEncodeIsIdentity := by
  intro i
  have hop : opField (encode i) = opcode i := opField_append _ _
  have harg : argField (encode i) = operandField i := argField_append _ _
  exact decode_eq_instr_iff.mpr ⟨hop, by rw [harg, readOperands_operandField]⟩

/-- Settles O3: an opcode is reserved or the opcode of an instruction. -/
theorem everyWordDecodesToOneThing : Obligations.EveryWordDecodesToOneThing := by
  intro c
  by_cases hres : opField c ∈ reservedOpcodes
  · exact .inl ⟨hres, decode_of_reserved hres⟩
  · obtain ⟨i, hi⟩ := exists_opcode_eq hres
    exact .inr ⟨hres, _, decode_of_opcode hi.symm, (opcode_readOperands i _).trans hi⟩

/-! ## Ignored bits -/

/-- Two words of one instruction that agree where its format names a bit are the same command. -/
theorem runCommand_congr {c d : CmdWord} {i : Instr} (hc : opField c = opcode i) (hd : opField d = opcode i)
    (harg : argField c &&& operandMask i = argField d &&& operandMask i) (s : State) :
    runCommand c s = runCommand d s := by
  rw [runCommand_instr (decode_of_opcode hc), runCommand_instr (decode_of_opcode hd), ← readOperands_and_operandMask,
    harg, readOperands_and_operandMask]

/-- Format `N` names no bit (30_encoding.md rule R53). -/
theorem exists_instr_of_formatN {op : BitVec 4} (h : op ∈ [0x4#4, 0x5#4, 0x6#4, 0x8#4, 0x9#4]) :
    ∃ i, op = opcode i ∧ operandMask i = 0#128 := by
  fin_cases h
  exacts [⟨.getState32, rfl, rfl⟩, ⟨.getState64, rfl, rfl⟩, ⟨.fullState, rfl, rfl⟩, ⟨.next, rfl, rfl⟩,
    ⟨.nextU32, rfl, rfl⟩]

/-- Format `A` names the low 32 bits (30_encoding.md rule R53). -/
theorem exists_instr_of_formatA {op : BitVec 4} (h : op ∈ [0x1#4, 0xA#4]) :
    ∃ i, op = opcode i ∧ operandMask i = 0xFFFFFFFF#128 := by
  fin_cases h
  exacts [⟨.fromSeed 0, rfl, rfl⟩, ⟨.nextBounded 0, rfl, rfl⟩]

/-- Format `AB` names the low 64 bits (30_encoding.md rule R53). -/
theorem exists_instr_of_formatAB {op : BitVec 4} (h : op = 0xB#4) :
    ∃ i, op = opcode i ∧ operandMask i = 0xFFFFFFFFFFFFFFFF#128 :=
  ⟨.nextRanged 0 0, h, rfl⟩

/-- Settles O4: in each format the bits on which the words agree are those that the mask of its instructions keeps. -/
theorem unnamedOperandBitsAreIgnored : Obligations.UnnamedOperandBitsAreIgnored := by
  intro c d s hop hformat
  obtain hN | ⟨hA, hword⟩ | ⟨hAB, hdword⟩ := hformat
  · obtain ⟨i, hi, hmask⟩ := exists_instr_of_formatN hN
    exact runCommand_congr hi (hop.symm.trans hi) (by rw [hmask, BitVec.and_zero, BitVec.and_zero]) s
  · obtain ⟨i, hi, hmask⟩ := exists_instr_of_formatA hA
    have harg : argWord (argField c) 0 = argWord (argField d) 0 := by
      rw [argWord_argField c (by decide), argWord_argField d (by decide), hword]
    exact runCommand_congr hi (hop.symm.trans hi)
      (by rw [hmask, ← setWidth_argWord_zero, ← setWidth_argWord_zero, harg]) s
  · obtain ⟨i, hi, hmask⟩ := exists_instr_of_formatAB hAB
    have harg : argDWord (argField c) 0 = argDWord (argField d) 0 := by
      rw [argDWord_argField c (by decide), argDWord_argField d (by decide), hdword]
    exact runCommand_congr hi (hop.symm.trans hi)
      (by rw [hmask, ← setWidth_argDWord_zero, ← setWidth_argDWord_zero, harg]) s

/-- A command word is its opcode above its operand field (30_encoding.md rule R52). -/
theorem opField_append_argField (c : CmdWord) : opField c ++ argField c = c :=
  BitVec.extractLsb'_append_extractLsb' (w := 4) (len := 128) (x := c)

/-- A mask with every opcode bit keeps the opcode and masks the operand field. -/
theorem and_append_operandMask (c : CmdWord) (m : QWord) :
    c &&& (0xF#4 ++ m : CmdWord) = opField c ++ (argField c &&& m) := by
  have hop : opField c &&& 0xF#4 = opField c := BitVec.and_allOnes
  calc c &&& (0xF#4 ++ m : CmdWord)
      = (opField c ++ argField c : CmdWord) &&& (0xF#4 ++ m) := by rw [opField_append_argField]
    _ = (opField c &&& 0xF#4) ++ (argField c &&& m) := BitVec.and_append
    _ = opField c ++ (argField c &&& m) := by rw [hop]

/-- Settles O7: the opcode is the word's own, and writing the operands that were read clears the unnamed bits. -/
theorem encodeOfDecodeClearsIgnoredBits : Obligations.EncodeOfDecodeClearsIgnoredBits := by
  intro c i h
  obtain ⟨hop, hread⟩ := decode_eq_instr_iff.mp h
  have hfield := operandField_readOperands i (argField c)
  rw [hread] at hfield
  rw [and_append_operandMask, hop, ← hfield, encode]

/-- Settles O5: the encodings are evaluated, and decoding takes each back. -/
theorem workedEncodingsAgree : Obligations.WorkedEncodingsAgree := by
  intro p hp
  have hencode : encode p.1 = p.2 := by decide +revert
  exact ⟨hencode, hencode ▸ decodeOfEncodeIsIdentity p.1⟩

/-! ## The defaults of the assembler -/

namespace Asm

/-- Every unsigned pattern is a legal `int32` operand (30_encoding.md rule R63). -/
@[simp] theorem isI32_num_toNat (v : Word) : Operand.isI32 (.num v.toNat) = true := by
  have hlt : v.toNat < 2 ^ 32 := v.isLt
  simp only [Operand.isI32, Bool.and_eq_true, decide_eq_true_eq]
  omega

@[simp] theorem rangedOperand_num_toNat (default v : Word) : rangedOperand default (some (.num v.toNat)) = v := by
  simp [rangedOperand]

@[simp] theorem rangedOperand_star (default : Word) : rangedOperand default (some .star) = default := rfl

@[simp] theorem rangedOperand_none (default : Word) : rangedOperand default none = default := rfl

/-- `NEXTRANGED` with at most two legal operands assembles, each operand or its default in its place (30_encoding.md rules
R63, R64). -/
theorem assemble_nextRanged {os : List Operand} (hlen : os.length ≤ 2) (hall : os.all Operand.isI32 = true) :
    assemble (.op .NEXTRANGED os) =
      some (encode (.nextRanged (rangedOperand 0x80000000#32 os[0]?) (rangedOperand 0x7FFFFFFF#32 os[1]?))) := by
  have hwf : Line.wf (.op .NEXTRANGED os) = true := by simp [Line.wf, hlen, hall]
  rw [assemble, if_pos hwf]
  rfl

end Asm

/-- Settles O8: what stands in a place is the operand, and nothing or `*` is the default of the place. -/
theorem rangedDefaultsAssemble : Obligations.RangedDefaultsAssemble := by
  have hstar : Asm.Operand.star.isI32 = true := rfl
  refine ⟨?_, ?_, fun v => ⟨?_, ?_, ?_⟩⟩ <;> rw [Asm.assemble_nextRanged (by simp) (by simp [hstar])] <;> simp

namespace Machine

/-! ## Status codes -/

/-- A result goes with the code of `OK` and with no other (30_encoding.md rule R59). -/
theorem res_isSome_iff_code (r : Response) : r.res.isSome = true ↔ r.code = 0#2 := by
  cases r with
  | ok v => exact iff_of_true rfl rfl
  | divZero | illegal | uninit => decide

/-- Settles O18: the codes are those of the table, one for each response. -/
theorem statusCodesAndResults : Obligations.StatusCodesAndResults :=
  ⟨fun _ => rfl, rfl, rfl, rfl, res_isSome_iff_code⟩

end Machine
end Sys2Proof
end

section
/-! SUPPORT. The statements of 40_construct.md: the whole effect of the three constructors (rules R70 to R72), that the two
state loads are one operation (rule R72), that a constructor forgets the past (rule R73), and that a saved state is restored
(rule R71). -/

namespace Sys2Proof.Machine

/-! ## The shared operation of the constructors -/

/-- A constructor completes on every engine that runs (40_construct.md rule R73). -/
theorem exec_built_of_running {i : Instr} {r : Words} (h : builtWords i = some r) {s : State} (hrun : s.fault = false) :
    exec i s = .next (construct r s) := by
  rw [exec_built h, accept_of_running hrun]

/-- Words, `INIT` and the response are all that a constructor writes. -/
theorem construct_eq (r : Words) (s : State) :
    construct r s = { s with regs := r, init := true, rsp := some (.ok 0#256) } := rfl

/-- A constructor forgets the constructor before it. -/
@[simp] theorem construct_construct (r q : Words) (s : State) : construct r (construct q s) = construct r s := rfl

/-- Settles O24: the operands alone say what words are loaded, and loading them again changes nothing. -/
theorem constructorForgetsThePast : Obligations.ConstructorForgetsThePast := by
  intro i s u hcons hs hu
  rw [isConstructor_eq, Option.isSome_iff_exists] at hcons
  obtain ⟨r, hr⟩ := hcons
  have hagain : exec i (construct r s) = .next (construct r s) := by
    rw [exec_built_of_running hr ((construct_fault r s).trans hs), construct_construct]
  exact ⟨construct r s, construct r u, exec_built_of_running hr hs, exec_built_of_running hr hu, rfl, rfl, rfl, rfl,
    hagain⟩

/-! ## The two state loads -/

/-- A word put together from the opcode of an instruction and an operand field runs that instruction on the operands of
the field (30_encoding.md rules R52, R53). -/
theorem runCommand_opcode_append (i : Instr) (arg : QWord) (s : State) :
    runCommand (opcode i ++ arg) s = exec (i.readOperands arg) s := by
  rw [runCommand_instr (decode_of_opcode (opField_append _ _)), argField_append]

/-- Settles O23: both words load four words, and formats `D` and `Q` place them alike (`unpack_argDWord`). -/
theorem bothStateLoadsAgreeOnArg : Obligations.BothStateLoadsAgreeOnArg := by
  intro arg s
  calc runCommand (0x3#4 ++ arg) s
      = accept s (construct ⟨argWord arg 0, argWord arg 1, argWord arg 2, argWord arg 3⟩) :=
        (runCommand_opcode_append (.fromState32 0 0 0 0) arg s).trans (exec_built rfl s)
    _ = accept s (construct (unpack64to32 (argDWord arg 0) (argDWord arg 1))) := by rw [unpack_argDWord]
    _ = runCommand (0x2#4 ++ arg) s :=
        ((runCommand_opcode_append (.fromState64 0 0) arg s).trans (exec_built rfl s)).symm

/-! ## Save and resume -/

/-- The low half of a 128-bit result is read back from the low half of `RES` (30_encoding.md rule R58). -/
theorem extractLsb'_resOf_append_low (hi lo : DWord) : (resOf (hi ++ lo : QWord)).extractLsb' 0 64 = lo :=
  (BitVec.extractLsb'_setWidth_of_le (by decide)).trans BitVec.extractLsb'_append_eq_right

/-- The high half lies above it. -/
theorem extractLsb'_resOf_append_high (hi lo : DWord) : (resOf (hi ++ lo : QWord)).extractLsb' 64 64 = hi :=
  (BitVec.extractLsb'_setWidth_of_le (by decide)).trans BitVec.extractLsb'_append_eq_left

/-- `GETSTATE64` on an initialised engine that runs answers `s1` above `s0` (41_inspect.md rule R81). -/
theorem exec_getState64_of_init {s : State} (hrun : s.fault = false) (hinit : s.init = true) :
    exec .getState64 s = .next (s.respond (.ok (resOf (s1Of s.regs ++ s0Of s.regs)))) := by
  rw [exec_inspected rfl, inspect_of_running hrun, if_pos hinit]
  rfl

/-- Settles O31: the halves come back out of `RES`, and unpacking them undoes packing the words. -/
theorem savedStateIsRestored : Obligations.SavedStateIsRestored := by
  intro s u hs hinit hu
  refine ⟨_, _, _, exec_getState64_of_init hs hinit, rfl, exec_built_of_running rfl hu, ?_, construct_init _ u⟩
  rw [construct_regs, extractLsb'_resOf_append_low, extractLsb'_resOf_append_high, unpack_pack]

/-! ## Encoding and whole effect -/

/-- One step of the seeder with the constants written out (00_scope.md rule R5, 40_construct.md rule R70). -/
theorem lcg_eq (v : Word) : lcg v = 0x6C078965#32 * v + 1#32 := rfl

/-- Settles O20: the words loaded are the seed and three steps of the recurrence, each from the one before. -/
theorem fromSeedExpandsTheSeed : Obligations.FromSeedExpandsTheSeed := by
  refine ⟨fun c hop => ?_, fun seed s hrun => ?_⟩
  · rw [decode_of_opcode (i := .fromSeed 0) hop, Instr.readOperands, argWord_argField c (by decide)]
  · simp only [exec_built_of_running (i := .fromSeed seed) rfl hrun, construct_eq, seedWords, lcg_eq]

/-- Settles O21: the operands are the halves of `ARG`, and the words loaded are their low and high parts. -/
theorem fromState64LoadsTheHalves : Obligations.FromState64LoadsTheHalves := by
  refine ⟨fun c hop => ?_, fun s0 s1 s hrun => ?_⟩
  · rw [decode_of_opcode (i := .fromState64 0 0) hop, Instr.readOperands, argDWord_argField c (by decide),
      argDWord_argField c (by decide)]
  · rw [exec_built_of_running (i := .fromState64 s0 s1) rfl hrun, construct_eq, unpack64to32]

/-- Settles O22: the operands are the words of `ARG`, and they are the words loaded. -/
theorem fromState32LoadsTheWords : Obligations.FromState32LoadsTheWords := by
  refine ⟨fun c hop => ?_, fun x y z w s hrun => ?_⟩
  · rw [decode_of_opcode (i := .fromState32 0 0 0 0) hop, Instr.readOperands, argWord_argField c (by decide),
      argWord_argField c (by decide), argWord_argField c (by decide), argWord_argField c (by decide)]
  · rw [exec_built_of_running (i := .fromState32 x y z w) rfl hrun, construct_eq]

end Sys2Proof.Machine
end

section
/-! SUPPORT. The statements of 41_inspect.md: the whole effect of the three inspection commands (rules R80 to R82), that the
two raw read-outs are one (rule R81), and the characters of `FULLSTATE` on the response bus (rule R82, 30_encoding.md rule
R60). -/

namespace Sys2Proof.Machine

/-! ## The shared operation of the inspection commands -/

/-- An inspection command completes on every engine that runs, and writes the response only (41_inspect.md rules R80 to
R82, 60_exceptions.md rule R118). -/
theorem exec_inspected_of_running {i : Instr} {f : Words → Res} (h : inspectedValue i = some f) {s : State}
    (hrun : s.fault = false) :
    exec i s = .next { s with rsp := some (if s.init then .ok (f s.regs) else .uninit) } := by
  rw [exec_inspected h, inspect_of_running hrun, State.respond]

/-! ## The raw read-outs -/

/-- Settles O28: the two values read are `S`, as halves and as words (`stateVec_eq_append`). -/
theorem bothReadoutsAreTheSameBits : Obligations.BothReadoutsAreTheSameBits := by
  intro s
  have hvalue : (fun r => resOf ((pack32to64 r).2 ++ (pack32to64 r).1)) = fun r => resOf (stateVec r) :=
    funext fun r => congrArg resOf (stateVec_eq_append r).symm
  rw [exec_inspected (i := .getState64) rfl, exec_inspected (i := .getState32) rfl, hvalue]

/-- Settles O26: the value read is `S`. -/
theorem getState32ReadsTheWords : Obligations.GetState32ReadsTheWords :=
  ⟨fun _ hop => decode_of_opcode (i := .getState32) hop,
    fun _ hrun => exec_inspected_of_running (i := .getState32) rfl hrun⟩

/-- Settles O27: the value read is `s1` above `s0`. -/
theorem getState64ReadsTheHalves : Obligations.GetState64ReadsTheHalves :=
  ⟨fun _ hop => decode_of_opcode (i := .getState64) hop,
    fun _ hrun => exec_inspected_of_running (i := .getState64) rfl hrun⟩

/-! ## Characters on the response bus -/

/-- One more character comes in at the low end. -/
theorem packChars_append_singleton (cs : List (BitVec 8)) (c : BitVec 8) :
    packChars (cs ++ [c]) = (packChars cs <<< 8) ||| c.setWidth 256 := by
  simp [packChars]

/-- The character that came in last is the low byte. -/
theorem extractLsb'_zero_shiftLeft_or (acc : Res) (c : BitVec 8) :
    ((acc <<< 8) ||| c.setWidth 256).extractLsb' 0 8 = c := by
  ext j hj
  have hbus : j < 256 := by omega
  simp [hj, hbus]

/-- The bytes that were there lie one byte higher. -/
theorem extractLsb'_add_shiftLeft_or (acc : Res) (c : BitVec 8) {k : Nat} (h : k + 16 ≤ 256) :
    ((acc <<< 8) ||| c.setWidth 256).extractLsb' (k + 8) 8 = acc.extractLsb' k 8 := by
  ext j hj
  have hbus : k + j < 256 := by omega
  have hpos : k + 8 + j = (k + j) + 8 := by omega
  have hroom : k + j + 8 < 256 := by omega
  simp [hpos, hbus, hroom, BitVec.getLsbD_eq_getElem]

/-- The `i`-th of at most 32 characters stands in its byte, the first one highest (30_encoding.md rule R60). -/
theorem extractLsb'_packChars (cs : List (BitVec 8)) (hlen : cs.length ≤ 32) {i : Nat} (hi : i < cs.length) :
    (packChars cs).extractLsb' (8 * (cs.length - 1 - i)) 8 = cs[i] := by
  induction cs using List.reverseRecOn with
  | nil => cases hi
  | append_singleton cs c ih =>
    simp only [List.length_append, List.length_singleton] at hlen hi
    rw [packChars_append_singleton, List.length_append, List.length_singleton]
    by_cases hlast : i < cs.length
    case pos =>
      have hpos : 8 * (cs.length + 1 - 1 - i) = 8 * (cs.length - 1 - i) + 8 := by omega
      rw [hpos, extractLsb'_add_shiftLeft_or _ _ (by omega), ih (by omega) hlast, List.getElem_append_left hlast]
    case neg =>
      obtain rfl : i = cs.length := by omega
      simp [extractLsb'_zero_shiftLeft_or]

/-- `FULLSTATE` has one character for each hexadecimal digit of `S` (41_inspect.md rule R82). -/
@[simp] theorem length_fullStateChars (s : QWord) : (fullStateChars s).length = 32 := by
  simp [fullStateChars]

/-- Byte by byte, the string of `FULLSTATE` is the digits of `S`, most significant first (41_inspect.md rule R82). -/
theorem extractLsb'_packChars_fullStateChars (s : QWord) {i : Nat} (hi : i < 32) :
    (packChars (fullStateChars s)).extractLsb' (248 - 8 * i) 8 = hexchar (hexDigit s i) := by
  have hpos : 248 - 8 * i = 8 * ((fullStateChars s).length - 1 - i) := by
    rw [length_fullStateChars]
    omega
  rw [hpos, extractLsb'_packChars _ (by simp) (by simpa using hi)]
  simp [fullStateChars]

/-- A character code fits a byte, so `hexchar` cuts nothing off. -/
theorem toNat_hexchar (n : BitVec 4) :
    (hexchar n).toNat = if n.toNat ≤ 9 then 0x30 + n.toNat else 0x41 + (n.toNat - 10) := by
  have hn : n.toNat < 16 := n.isLt
  unfold hexchar
  split <;> exact (BitVec.toNat_ofNat ..).trans (Nat.mod_eq_of_lt (by omega))

/-- Settles O29: an uninitialised engine answers `UNINIT`; an initialised one answers the packed string, whose bytes are the
characters of the digits. -/
theorem fullStateSpellsTheState : Obligations.FullStateSpellsTheState := by
  refine ⟨fun _ hop => decode_of_opcode (i := .fullState) hop, fun s hrun => ⟨fun hinit => ?_, fun hinit => ?_⟩⟩
  · rw [exec_inspected_of_running rfl hrun, hinit, if_neg Bool.false_ne_true]
  · refine ⟨packChars (fullStateChars (stateVec s.regs)), ?_, fun i hi => ?_⟩
    · rw [exec_inspected_of_running rfl hrun, if_pos hinit]
    · exact (congrArg BitVec.toNat (extractLsb'_packChars_fullStateChars _ hi)).trans (toNat_hexchar _)

end Sys2Proof.Machine
end

section
/-! SUPPORT. The statements of 42_advance.md: the whole effect of `NEXT` (rule R90), and that the casts of `NEXTU32` cancel, so
that it is `NEXT` under another opcode (rule R91). -/

namespace Sys2Proof.Machine

/-! ## The shared operation of the generation commands -/

/-- A generation command before the first constructor is refused and takes no step (60_exceptions.md rule R118). -/
theorem exec_generated_of_uninit {i : Instr} {f : Word → Option Word} (h : generatedValue i = some f) {s : State}
    (hrun : s.fault = false) (hinit : s.init = false) : exec i s = .next (s.respond .uninit) := by
  rw [exec_generated h]
  exact generate_eq_next_iff.mpr ⟨hrun, .inr ⟨hinit, rfl⟩⟩

/-- An initialised engine that runs takes the step, and answers from the new `w`. -/
theorem exec_generated_of_init {i : Instr} {f : Word → Option Word} (h : generatedValue i = some f) {s : State}
    (hrun : s.fault = false) (hinit : s.init = true) :
    exec i s = .next (deliver (f (nextStep s.regs).w) s.advance) := by
  rw [exec_generated h]
  exact generate_eq_next_iff.mpr ⟨hrun, .inl ⟨hinit, rfl⟩⟩

/-- The commands of one class that answer alike are one command. -/
theorem exec_congr_generatedValue {i j : Instr} {f : Word → Option Word} (hi : generatedValue i = some f)
    (hj : generatedValue j = some f) (s : State) : exec i s = exec j s :=
  (exec_generated hi s).trans (exec_generated hj s).symm

/-- A generation command with a value writes the stepped words and the response, and nothing else. -/
theorem deliver_some_advance (v : Word) (s : State) :
    deliver (some v) s.advance = { s with regs := nextStep s.regs, rsp := some (.ok (v.setWidth 256)) } := rfl

/-! ## The step -/

/-- The step with the primitives and the shift amounts written out (00_scope.md rules R5, R8, 42_advance.md rule R90). -/
theorem nextStep_eq (r : Words) :
    nextStep r =
      ⟨r.y, r.z, r.w, r.w ^^^ (r.w >>> 19) ^^^ (r.x ^^^ (r.x <<< 11)) ^^^ ((r.x ^^^ (r.x <<< 11)) >>> 8)⟩ := rfl

/-- Settles O32: an uninitialised engine refuses; an initialised one takes the step and answers the new `w`. -/
theorem nextTakesOneStep : Obligations.NextTakesOneStep := by
  refine ⟨fun _ hop => decode_of_opcode (i := .next) hop, fun s hrun => ⟨fun hinit => ?_, fun hinit => ?_⟩⟩
  · exact exec_generated_of_uninit (i := .next) rfl hrun hinit
  · rw [exec_generated_of_init (i := .next) rfl hrun hinit, deliver_some_advance, nextStep_eq]

/-! ## The casts of `NEXTU32` -/

/-- `signed32` is the two's-complement reading of the pattern (00_scope.md rule R7). -/
theorem signed32_eq_toInt (v : Word) : signed32 v = v.toInt := by
  rw [signed32, BitVec.toInt_eq_toNat_cond]
  split <;> split <;> omega

/-- Casting to `int32` and back keeps the pattern (42_advance.md rule R91). -/
@[simp] theorem pattern32_signed32 (v : Word) : pattern32 (signed32 v) = v := by
  rw [signed32_eq_toInt, pattern32, BitVec.ofInt_toInt]

/-- `NEXTU32` answers as `NEXT` does: the new `w` itself. -/
theorem generatedValue_nextU32 : generatedValue .nextU32 = generatedValue .next := by
  simp only [generatedValue, pattern32_signed32]

/-- Settles O33: since the casts cancel, `NEXTU32` is the same generation command as `NEXT`. -/
theorem nextU32EqualsNext : Obligations.NextU32EqualsNext := by
  refine ⟨fun _ hop => decode_of_opcode (i := .nextU32) hop, pattern32_signed32, fun s hrun hinit => ?_,
    exec_congr_generatedValue generatedValue_nextU32 rfl⟩
  rw [exec_generated_of_init (i := .nextU32) generatedValue_nextU32 hrun hinit, deliver_some_advance]

end Sys2Proof.Machine
end

section
/-! SUPPORT. The statements of 43_bounded.md: the whole effect of `NEXTBOUNDED` (rule R100) and of `NEXTRANGED` (rule R101), the
fault included, and the corner cases of both: a power of two, a bound above the output, and the default operands. -/

namespace Sys2Proof.Machine

/-! ## The two outcomes of a bounded command -/

/-- A generation command without a value writes the stepped words, `FAULT` and the response (60_exceptions.md rule R113). -/
theorem deliver_none_advance (s : State) :
    deliver none s.advance = { s with regs := nextStep s.regs, fault := true, rsp := some .divZero } := rfl

theorem exec_nextBounded_of_ne_zero {max : Word} (hmax : max ≠ 0#32) {s : State} (hrun : s.fault = false)
    (hinit : s.init = true) :
    exec (.nextBounded max) s = .next { s with
      regs := nextStep s.regs
      rsp := some (.ok ((urem32 (nextStep s.regs).w max).setWidth 256)) } := by
  rw [exec_generated_of_init (i := .nextBounded max) rfl hrun hinit, if_neg hmax, deliver_some_advance]

theorem exec_nextRanged_of_ne {start stop : Word} (hne : start ≠ stop) {s : State} (hrun : s.fault = false)
    (hinit : s.init = true) :
    exec (.nextRanged start stop) s = .next { s with
      regs := nextStep s.regs
      rsp := some (.ok ((add32 start (urem32 (nextStep s.regs).w (sub32 stop start))).setWidth 256)) } := by
  rw [exec_generated_of_init (i := .nextRanged start stop) rfl hrun hinit, if_neg (mt sub32_eq_zero_iff.mp hne),
    deliver_some_advance]

/-! ## The values on `RES` as integer arithmetic -/

theorem setWidth_urem32 (v max : Word) : (urem32 v max).setWidth 256 = BitVec.ofNat 256 (v.toNat % max.toNat) := by
  rw [← BitVec.ofNat_toNat, toNat_urem32]

/-- The wrapped difference is one remainder: adding the modulus first makes the subtraction exact. -/
theorem toNat_sub32_eq_mod (a b : Word) : (sub32 a b).toNat = (a.toNat + 2 ^ 32 - b.toNat) % 2 ^ 32 := by
  rw [Nat.add_comm a.toNat, Nat.sub_add_comm b.isLt.le]
  exact BitVec.toNat_sub a b

theorem setWidth_rangedValue (start stop v : Word) :
    (add32 start (urem32 v (sub32 stop start))).setWidth 256 =
      BitVec.ofNat 256
        ((start.toNat + v.toNat % ((stop.toNat + 2 ^ 32 - start.toNat) % 2 ^ 32)) % 2 ^ 32) := by
  rw [← BitVec.ofNat_toNat, toNat_add32, toNat_urem32, toNat_sub32_eq_mod]

/-! ## Encoding and whole effect -/

/-- Settles O38: `UNINIT`, the fault, and the remainder, each by the command's rule for that case. -/
theorem nextBoundedReducesModuloMax : Obligations.NextBoundedReducesModuloMax := by
  refine ⟨fun c hop => ?_, fun max s hrun => ?_⟩
  · rw [decode_of_opcode (i := .nextBounded 0) hop, Instr.readOperands, argWord_argField c (by decide)]
  · split
    case isTrue hinit => exact exec_generated_of_uninit (i := .nextBounded max) rfl hrun hinit
    case isFalse hinit =>
      replace hinit : s.init = true := Bool.eq_true_of_not_eq_false hinit
      split
      case isTrue hmax =>
        rw [exec_generated_of_init (i := .nextBounded max) rfl hrun hinit, if_pos hmax, deliver_none_advance]
      case isFalse hmax => rw [exec_nextBounded_of_ne_zero hmax hrun hinit, setWidth_urem32]

/-- Settles O39: as for `NEXTBOUNDED`; `delta` is 0 exactly on equal operands (`sub32_eq_zero_iff`). -/
theorem nextRangedMapsIntoTheRange : Obligations.NextRangedMapsIntoTheRange := by
  refine ⟨fun c hop => ?_, fun start stop s hrun => ?_⟩
  · rw [decode_of_opcode (i := .nextRanged 0 0) hop, Instr.readOperands, argWord_argField c (by decide),
      argWord_argField c (by decide)]
  · dsimp only
    split
    case isTrue hinit => exact exec_generated_of_uninit (i := .nextRanged start stop) rfl hrun hinit
    case isFalse hinit =>
      replace hinit : s.init = true := Bool.eq_true_of_not_eq_false hinit
      split
      case isTrue heq =>
        rw [exec_generated_of_init (i := .nextRanged start stop) rfl hrun hinit,
          if_pos (sub32_eq_zero_iff.mpr heq), deliver_none_advance]
      case isFalse hne => rw [exec_nextRanged_of_ne hne hrun hinit, setWidth_rangedValue]

/-! ## Corner cases of `NEXTBOUNDED` -/

theorem twoPow_ne_zero {k : Nat} (hk : k < 32) : BitVec.twoPow 32 k ≠ 0#32 := by
  rw [ne_eq, ← BitVec.toNat_inj, BitVec.toNat_twoPow_of_lt hk]
  exact (Nat.two_pow_pos k).ne'

/-- The remainder by a power of two is the low bits. -/
theorem setWidth_urem32_twoPow (v : Word) {k : Nat} (hk : k < 32) :
    (urem32 v (BitVec.twoPow 32 k)).setWidth 256 = (v.setWidth k).setWidth 256 := by
  rw [setWidth_urem32, BitVec.toNat_twoPow_of_lt hk, ← BitVec.toNat_setWidth, BitVec.ofNat_toNat]

theorem ne_zero_of_toNat_lt {v max : Word} (h : v.toNat < max.toNat) : max ≠ 0#32 := by
  rintro rfl
  exact Nat.not_lt_zero _ h

theorem urem32_of_lt {v max : Word} (h : v.toNat < max.toNat) : urem32 v max = v := BitVec.umod_eq_of_lt h

/-- Settles O42: neither bound is 0, so the command answers the remainder, which is the low bits or the output itself. -/
theorem boundedByPowerOfTwoKeepsLowBits : Obligations.BoundedByPowerOfTwoKeepsLowBits := by
  refine fun s hrun hinit => ⟨fun k hk => ?_, fun max hlt => ?_⟩
  · refine ⟨_, exec_nextBounded_of_ne_zero (twoPow_ne_zero hk) hrun hinit, ?_⟩
    rw [setWidth_urem32_twoPow _ hk]
  · refine ⟨_, exec_nextBounded_of_ne_zero (ne_zero_of_toNat_lt hlt) hrun hinit, ?_⟩
    rw [urem32_of_lt hlt]

/-! ## The default operands of `NEXTRANGED` -/

/-- The top bit alone has no bit below the top, so adding it carries nothing into any bit. -/
theorem carry_intMin {n : Nat} (v : BitVec n) {i : Nat} (hi : i < n) :
    BitVec.carry i v (BitVec.intMin n) false = false := by
  have hlow : (BitVec.intMin n).toNat % 2 ^ i = 0 := by
    rw [BitVec.toNat_intMin_of_pos (Nat.zero_lt_of_lt hi)]
    exact Nat.mod_eq_zero_of_dvd (Nat.pow_dvd_pow 2 (Nat.le_sub_one_of_lt hi))
  have hlt : v.toNat % 2 ^ i < 2 ^ i := Nat.mod_lt _ (Nat.two_pow_pos i)
  rw [BitVec.carry, hlow]
  simpa using hlt

/-- Adding the top bit turns it. -/
theorem add_intMin_eq_xor {n : Nat} (v : BitVec n) : v + BitVec.intMin n = v ^^^ BitVec.intMin n := by
  apply BitVec.eq_of_getLsbD_eq
  intro i hi
  rw [BitVec.getLsbD_add hi, carry_intMin v hi, Bool.xor_false, BitVec.getLsbD_xor]

theorem add32_topBit (v : Word) : add32 0x80000000#32 v = v ^^^ 0x80000000#32 :=
  (BitVec.add_comm _ v).trans (add_intMin_eq_xor v)

/-- With the default operands `delta` is the largest word. -/
theorem sub32_defaultOperands : sub32 0x7FFFFFFF#32 0x80000000#32 = 0xFFFFFFFF#32 := by decide

/-- The remainder by the largest word changes the largest word only, which it sends to 0. -/
theorem urem32_allOnes (v : Word) :
    urem32 v 0xFFFFFFFF#32 = if v = 0xFFFFFFFF#32 then 0#32 else v := by
  split
  case isTrue h => rw [h, urem32, BitVec.umod_self]
  case isFalse h => exact BitVec.umod_eq_of_lt (BitVec.lt_allOnes_iff.mpr h)

/-- Settles O44: the remainder is the output but for the largest one, and adding `start` turns the top bit. -/
theorem defaultRangeTurnsTheTopBit : Obligations.DefaultRangeTurnsTheTopBit := by
  intro s hrun hinit
  refine ⟨_, exec_nextRanged_of_ne (by decide) hrun hinit, ?_⟩
  rw [sub32_defaultOperands, urem32_allOnes, apply_ite (add32 0x80000000#32), add32_topBit, add32_topBit,
    BitVec.zero_xor]

end Sys2Proof.Machine
end

section
/-! SUPPORT. The statements of 60_exceptions.md about the three responses other than `OK`: the division-by-zero fault
(rules R111, R113), the reserved opcodes (rule R117), and the commands before the first constructor (rule R118). -/

namespace Sys2Proof.Machine

/-! ## The division-by-zero fault -/

theorem cmdReady_of_halted {s : State} (h : s.fault = true) : cmdReady s = false := by
  simp [cmdReady, h]

/-- `DIVZERO` is the answer exactly where there is no value. -/
theorem deliver_rsp_eq_divZero_iff {out : Option Word} {s : State} :
    (deliver out s).rsp = some .divZero ↔ out.isNone = true := by
  cases out <;> simp [deliver]

/-- The commands that can divide by zero are generation commands. -/
theorem exists_generatedValue_of_dividesByZero {i : Instr} (h : i.dividesByZero = true) :
    ∃ f, generatedValue i = some f := by
  cases i with
  | nextBounded | nextRanged => exact ⟨_, rfl⟩
  | fromSeed | fromState64 | fromState32 | getState32 | getState64 | fullState | next | nextU32 => cases h

/-- Taking the fault: the step is committed, `FAULT` is set, and `DIVZERO` is answered (60_exceptions.md rule R113). -/
theorem exec_of_dividesByZero {i : Instr} (hdiv : i.dividesByZero = true) {s : State} (hrun : s.fault = false)
    (hinit : s.init = true) :
    exec i s = .next { s with regs := nextStep s.regs, fault := true, rsp := some .divZero } := by
  obtain ⟨f, hf⟩ := exists_generatedValue_of_dividesByZero hdiv
  have hnone : f (nextStep s.regs).w = none :=
    Option.isNone_iff_eq_none.mp ((generatedValue_isNone hf _).trans hdiv)
  rw [exec_generated_of_init hf hrun hinit, hnone, deliver_none_advance]

/-- Nothing but the operands of 60_exceptions.md rule R111 is answered `DIVZERO`: constructors and inspection commands
answer `OK`, and a refused command answers `UNINIT`. -/
theorem dividesByZero_of_rsp_divZero {i : Instr} {s t : State} (h : exec i s = .next t)
    (hrsp : t.rsp = some .divZero) : i.dividesByZero = true := by
  obtain ⟨-, ⟨r, -, rfl⟩ | ⟨-, f, -, rfl⟩ | ⟨-, f, hf, rfl⟩ | ⟨-, -, rfl⟩⟩ := exec_cases h
  · cases hrsp
  · cases hrsp
  · rw [← generatedValue_isNone hf, deliver_rsp_eq_divZero_iff.mp hrsp]
  · cases hrsp

/-- Settles O40: the operands of rule R111 take the fault (`exec_of_dividesByZero`), and no others are answered so. -/
theorem divisionByZeroTakesTheFault : Obligations.DivisionByZeroTakesTheFault := by
  refine ⟨rfl, rfl, fun i s hrun hinit => ⟨⟨fun hdiv => ?_, ?_⟩, fun hdiv => ?_⟩⟩
  · exact ⟨_, exec_of_dividesByZero hdiv hrun hinit, rfl⟩
  · rintro ⟨t, hexec, hrsp⟩
    exact dividesByZero_of_rsp_divZero hexec hrsp
  · exact ⟨_, exec_of_dividesByZero hdiv hrun hinit, rfl, cmdReady_of_halted rfl⟩

/-! ## Reserved opcodes -/

/-- A presented word with a reserved opcode: the response is all that is written (60_exceptions.md rule R117). -/
theorem step_command_reserved {s : State} {c : CmdWord} {rest : List HostAction}
    (hhost : s.host = .command c :: rest) (hrun : s.fault = false) (hres : opField c ∈ reservedOpcodes) :
    step s = .next ((s.withHost rest).respond .illegal) := by
  rw [step_command hhost, runCommand_reserved (decode_of_reserved hres), refuseIllegal,
    accept_of_running ((State.withHost_fault s rest).trans hrun)]

/-- Settles O12: the response is all that the refusal writes, so the engine is as ready as it was. -/
theorem reservedOpcodeIsIllegal : Obligations.ReservedOpcodeIsIllegal :=
  ⟨fun _ _ _ hhost hrun hres => ⟨step_command_reserved hhost hrun hres, cmdReady_of_running hrun⟩, rfl, rfl⟩

/-! ## Before the first constructor -/

/-- Inspection and generation commands are the commands that load no words (00_scope.md rule R12). -/
theorem builtWords_eq_none_of_inspection_or_generation {i : Instr} (h : (i.isInspection || i.isGeneration) = true) :
    builtWords i = none := by
  cases i with
  | fromSeed | fromState64 | fromState32 => cases h
  | getState32 | getState64 | fullState | next | nextU32 | nextBounded | nextRanged => rfl

/-- A command that needs `INIT = 1` and does not find it: the response is all that is written (60_exceptions.md rule
R118). -/
theorem exec_of_uninit {i : Instr} (h : builtWords i = none) {s : State} (hrun : s.fault = false)
    (hinit : s.init = false) : exec i s = .next (s.respond .uninit) := by
  obtain ⟨r, hr⟩ | ⟨-, f, hf⟩ | ⟨-, f, hf⟩ := instr_classes i
  · rw [h] at hr
    cases hr
  · rw [exec_inspected hf, inspect_of_running hrun, hinit, if_neg Bool.false_ne_true]
  · exact exec_generated_of_uninit hf hrun hinit

/-- Settles O13: without `INIT` the response is all that is written; a constructor answers `OK`. -/
theorem uninitialisedCommandsAreRefused : Obligations.UninitialisedCommandsAreRefused := by
  refine ⟨fun i s hclass hrun hinit => ?_, rfl, rfl, fun i s hcons hrun => ?_⟩
  · have hbuilt := builtWords_eq_none_of_inspection_or_generation hclass
    exact ⟨exec_of_uninit hbuilt hrun hinit, cmdReady_of_running hrun⟩
  · rw [isConstructor_eq, Option.isSome_iff_exists] at hcons
    obtain ⟨r, hr⟩ := hcons
    exact ⟨construct r s, exec_built_of_running hr hrun, by simp⟩

end Sys2Proof.Machine
end

section
/-! SUPPORT. The statement of 70_reset_and_hazards.md about the handshake: a command that is accepted is answered in its own
step (rules R134, R136, R138). -/

namespace Sys2Proof.Machine

theorem cmdReady_eq_true_iff {s : State} : cmdReady s = true ↔ s.fault = false := by
  rw [cmdReady, Bool.not_eq_true']

/-- A value is answered `OK`, no value `DIVZERO`: either way there is a response. -/
theorem exists_deliver_rsp (out : Option Word) (s : State) : ∃ r, (deliver out s).rsp = some r := by
  cases out with
  | none => exact ⟨.divZero, rfl⟩
  | some v => exact ⟨.ok (resOf v), rfl⟩

/-- Whatever an instruction does, it ends with a response. -/
theorem exists_rsp_of_exec {i : Instr} {s t : State} (h : exec i s = .next t) : ∃ r, t.rsp = some r := by
  obtain ⟨-, ⟨r, -, rfl⟩ | ⟨-, f, -, rfl⟩ | ⟨-, f, -, rfl⟩ | ⟨-, -, rfl⟩⟩ := exec_cases h
  · exact ⟨_, construct_rsp r s⟩
  · exact ⟨_, State.respond_rsp s _⟩
  · exact exists_deliver_rsp _ _
  · exact ⟨_, State.respond_rsp s _⟩

/-- Settles O17: an instruction completes on an engine that runs, with a response and the host's list kept; a reserved
opcode is answered `ILLEGAL`. -/
theorem everyAcceptedCommandIsAnswered : Obligations.EveryAcceptedCommandIsAnswered := by
  intro s c rest hhost hready
  have hrun : s.fault = false := cmdReady_eq_true_iff.mp hready
  by_cases hres : opField c ∈ reservedOpcodes
  · exact ⟨_, _, step_command_reserved hhost hrun hres, State.respond_rsp _ _, rfl⟩
  · obtain ⟨i, hop⟩ := exists_opcode_eq hres
    have hstep := step_command_instr hhost (decode_of_opcode hop.symm)
    obtain ⟨t, hexec⟩ := exec_of_running (i.readOperands (argField c)) (s := s.withHost rest) hrun
    obtain ⟨r, hrsp⟩ := exists_rsp_of_exec hexec
    obtain ⟨hkept, -⟩ := instructionsKeepTheirFrame _ _ t hexec
    exact ⟨t, r, hstep.trans hexec, hrsp, hkept⟩

end Sys2Proof.Machine
end

section
/-! SUPPORT. The invariant of the flags and the response, kept by every step (10_state.md rule R28, 60_exceptions.md rules R113,
R118). It does not depend on the state before: whatever a step that completes leaves, meets it. -/

namespace Sys2Proof.Machine

/-! ## The invariant after each operation -/

/-- Without `FAULT` and without a response that speaks of a flag there is nothing to meet. -/
theorem State.inv_of_no_response {s : State} (hrun : s.fault = false) (hrsp : s.rsp = none) : s.Inv := by
  simp [State.Inv, hrun, hrsp]

theorem State.inv_respond_ok {s : State} (hrun : s.fault = false) (hinit : s.init = true) (v : Res) :
    (s.respond (.ok v)).Inv := by
  simp [State.Inv, hrun, hinit]

theorem State.inv_respond_uninit {s : State} (hrun : s.fault = false) (hinit : s.init = false) :
    (s.respond .uninit).Inv := by
  simp [State.Inv, hrun, hinit]

theorem State.inv_respond_illegal {s : State} (hrun : s.fault = false) : (s.respond .illegal).Inv := by
  simp [State.Inv, hrun]

theorem State.inv_raiseDivZero {s : State} (hinit : s.init = true) : s.raiseDivZero.Inv := by
  simp [State.Inv, hinit]

theorem construct_inv {s : State} (hrun : s.fault = false) (r : Words) : (construct r s).Inv :=
  State.inv_respond_ok (s := (s.loadWords r).setInit) hrun rfl 0#256

/-- A value is answered without the fault, no value with it; both by an initialised engine. -/
theorem deliver_inv {s : State} (hrun : s.fault = false) (hinit : s.init = true) (out : Option Word) :
    (deliver out s).Inv := by
  cases out with
  | some v => exact State.inv_respond_ok hrun hinit (resOf v)
  | none => exact State.inv_raiseDivZero hinit

/-! ## The invariant after an instruction and after a step -/

theorem inv_of_exec {i : Instr} {s t : State} (h : exec i s = .next t) : t.Inv := by
  obtain ⟨hrun, ⟨r, -, rfl⟩ | ⟨hinit, f, -, rfl⟩ | ⟨hinit, f, -, rfl⟩ | ⟨hinit, -, rfl⟩⟩ := exec_cases h
  · exact construct_inv hrun r
  · exact State.inv_respond_ok hrun hinit _
  · exact deliver_inv (s := s.advance) hrun hinit _
  · exact State.inv_respond_uninit hrun hinit

theorem inv_of_step {s t : State} (h : step s = .next t) : t.Inv := by
  obtain ⟨c, rest, i, -, -, hexec⟩ | ⟨c, rest, op, -, -, hrun, rfl⟩ | ⟨rest, -, rfl⟩ | ⟨-, hrun, rfl⟩ := step_cases h
  · exact inv_of_exec hexec
  · exact State.inv_respond_illegal (s := s.withHost rest) hrun
  · exact State.inv_of_no_response rfl rfl
  · exact State.inv_of_no_response hrun rfl

/-- Settles O49: the next state meets the invariant, by what the step did (`inv_of_step`). -/
theorem stepKeepsTheFlagInvariant : Obligations.StepKeepsTheFlagInvariant := fun _ _ _ hstep => inv_of_step hstep

/-- Settles O50: reset leaves no response and `FAULT = 0`. -/
theorem resetMeetsTheFlagInvariant : Obligations.ResetMeetsTheFlagInvariant :=
  State.inv_of_no_response State.reset_fault State.reset_rsp

end Sys2Proof.Machine
end

section
/-! SUPPORT. Determinism (70_reset_and_hazards.md rule R139): engines that a host cannot tell apart stay so, operation by
operation, and therefore answer alike in every run. -/

namespace Sys2Proof.Machine

/-! ## What agreement gives, by name -/

theorem State.Agree.init_eq {s t : State} (h : s.Agree t) : s.init = t.init :=
  let ⟨hinit, _⟩ := h; hinit

theorem State.Agree.fault_eq {s t : State} (h : s.Agree t) : s.fault = t.fault :=
  let ⟨_, hfault, _⟩ := h; hfault

theorem State.Agree.rsp_eq {s t : State} (h : s.Agree t) : s.rsp = t.rsp :=
  let ⟨_, _, hrsp, _⟩ := h; hrsp

theorem State.Agree.host_eq {s t : State} (h : s.Agree t) : s.host = t.host :=
  let ⟨_, _, _, hhost, _⟩ := h; hhost

theorem State.Agree.regs_eq {s t : State} (h : s.Agree t) (hinit : s.init = true) : s.regs = t.regs :=
  let ⟨_, _, _, _, hregs⟩ := h; hregs hinit

/-- The words of two engines with `INIT = 0` do not matter. -/
theorem State.agree_of_uninit {s t : State} (hs : s.init = false) (ht : t.init = false) (hfault : s.fault = t.fault)
    (hrsp : s.rsp = t.rsp) (hhost : s.host = t.host) : s.Agree t :=
  ⟨hs.trans ht.symm, hfault, hrsp, hhost, fun hinit => absurd (hs.symm.trans hinit) Bool.false_ne_true⟩

/-! ## Agreement under the operations on the state -/

/-- Words that are equal once `INIT = 1` stay equal when both take the step. -/
theorem State.Agree.advance {s t : State} (h : s.Agree t) : s.advance.Agree t.advance :=
  ⟨h.init_eq, h.fault_eq, h.rsp_eq, h.host_eq, fun hinit => congrArg nextStep (h.regs_eq hinit)⟩

theorem State.Agree.respond {s t : State} (h : s.Agree t) (r : Response) : (s.respond r).Agree (t.respond r) :=
  ⟨h.init_eq, h.fault_eq, rfl, h.host_eq, h.regs_eq⟩

theorem State.Agree.noResponse {s t : State} (h : s.Agree t) : s.noResponse.Agree t.noResponse :=
  ⟨h.init_eq, h.fault_eq, rfl, h.host_eq, h.regs_eq⟩

theorem State.Agree.raiseDivZero {s t : State} (h : s.Agree t) : s.raiseDivZero.Agree t.raiseDivZero :=
  ⟨h.init_eq, rfl, rfl, h.host_eq, h.regs_eq⟩

theorem State.Agree.withHost {s t : State} (h : s.Agree t) (rest : List HostAction) :
    (s.withHost rest).Agree (t.withHost rest) :=
  ⟨h.init_eq, h.fault_eq, h.rsp_eq, rfl, h.regs_eq⟩

/-- A constructor loads the same words into both engines, whatever they held. -/
theorem State.Agree.construct {s t : State} (h : s.Agree t) (r : Words) :
    (construct r s).Agree (construct r t) :=
  ⟨rfl, h.fault_eq, rfl, h.host_eq, fun _ => rfl⟩

theorem State.Agree.takeReset {s t : State} (h : s.Agree t) : s.takeReset.Agree t.takeReset :=
  State.agree_of_uninit rfl rfl rfl rfl h.host_eq

theorem State.Agree.deliver {s t : State} (h : s.Agree t) (out : Option Word) :
    (deliver out s).Agree (deliver out t) := by
  cases out with
  | some v => exact h.respond (.ok (resOf v))
  | none => exact h.raiseDivZero

/-! ## Agreement under the checks -/

/-- Both engines are halted, or neither is. -/
theorem accept_agree {s t : State} {f g : State → State} (h : s.Agree t) (hbody : (f s).Agree (g t)) :
    Result.Agree (accept s f) (accept t g) := by
  cases hs : s.fault with
  | true => rw [accept_of_fault hs, accept_of_fault (h.fault_eq.symm.trans hs)]; exact rfl
  | false => rw [accept_of_running hs, accept_of_running (h.fault_eq.symm.trans hs)]; exact hbody

/-- The body runs on both engines, with the same words, or on neither. -/
theorem requireInit_agree {s t : State} {f g : State → State} (h : s.Agree t)
    (hbody : s.regs = t.regs → (f s).Agree (g t)) : (requireInit f s).Agree (requireInit g t) := by
  cases hs : s.init with
  | true => rw [requireInit_of_init hs, requireInit_of_init (h.init_eq.symm.trans hs)]; exact hbody (h.regs_eq hs)
  | false => rw [requireInit_of_uninit hs, requireInit_of_uninit (h.init_eq.symm.trans hs)]; exact h.respond .uninit

/-! ## Agreement under an instruction and under a step -/

theorem exec_agree {s t : State} (h : s.Agree t) (i : Instr) : Result.Agree (exec i s) (exec i t) := by
  obtain ⟨r, hr⟩ | ⟨-, f, hf⟩ | ⟨-, f, hf⟩ := instr_classes i
  · rw [exec_built hr, exec_built hr]
    exact accept_agree h (h.construct r)
  · rw [exec_inspected hf, exec_inspected hf]
    refine accept_agree h (requireInit_agree h fun hregs => ?_)
    rw [hregs]
    exact h.respond _
  · rw [exec_generated hf, exec_generated hf]
    refine accept_agree h (requireInit_agree h fun hregs => ?_)
    have hnew : s.advance.regs = t.advance.regs := congrArg nextStep hregs
    dsimp only
    rw [hnew]
    exact h.advance.deliver _

theorem runCommand_agree {s t : State} (h : s.Agree t) (c : CmdWord) :
    Result.Agree (runCommand c s) (runCommand c t) := by
  cases hdec : decode c with
  | instr i => rw [runCommand_instr hdec, runCommand_instr hdec]; exact exec_agree h i
  | reserved op =>
    rw [runCommand_reserved hdec, runCommand_reserved hdec]
    exact accept_agree h (h.respond .illegal)

/-- Settles O51: the engines meet the same action of the host, and each action keeps agreement. -/
theorem unspecifiedWordsNeverEscape : Obligations.UnspecifiedWordsNeverEscape := by
  intro s t h
  match hs : s.host with
  | [] =>
    rw [step_idle hs, step_idle (h.host_eq.symm.trans hs)]
    exact accept_agree h h.noResponse
  | .reset :: rest =>
    rw [step_reset hs, step_reset (h.host_eq.symm.trans hs)]
    exact (h.withHost rest).takeReset
  | .command c :: rest =>
    rw [step_command hs, step_command (h.host_eq.symm.trans hs)]
    exact runCommand_agree (h.withHost rest) c

/-! ## Runs -/

/-- Outcomes that agree are next states that agree, or the same stop. -/
theorem Result.Agree.cases {a b : Result} (h : Result.Agree a b) :
    (∃ s t, a = .next s ∧ b = .next t ∧ s.Agree t) ∨ (∃ r, a = .fault r ∧ b = .fault r) ∨
      (∃ r, a = .refused r ∧ b = .refused r) := by
  match a, b, h with
  | .next s, .next t, h => exact .inl ⟨s, t, rfl, rfl, h⟩
  | .fault r, .fault _, rfl => exact .inr (.inl ⟨r, rfl, rfl⟩)
  | .refused r, .refused _, rfl => exact .inr (.inr ⟨r, rfl, rfl⟩)

theorem runResponses_succ_of_next {s t : State} (h : step s = .next t) (k : Nat) :
    runResponses (k + 1) s = t.rsp.toList ++ runResponses k t := by simp [runResponses, h]

theorem runResponses_succ_of_fault {s : State} {r : Fault} (h : step s = .fault r) (k : Nat) :
    runResponses (k + 1) s = [] := by simp [runResponses, h]

theorem runResponses_succ_of_refused {s : State} {r : Refusal} (h : step s = .refused r) (k : Nat) :
    runResponses (k + 1) s = [] := by simp [runResponses, h]

/-- Engines that a host cannot tell apart answer alike for ever: by induction on the number of transactions. -/
theorem runResponses_agree {s t : State} (h : s.Agree t) (k : Nat) : runResponses k s = runResponses k t := by
  induction k generalizing s t with
  | zero => rfl
  | succ k ih =>
    obtain ⟨s', t', hs, ht, h'⟩ | ⟨r, hs, ht⟩ | ⟨r, hs, ht⟩ := (unspecifiedWordsNeverEscape s t h).cases
    · rw [runResponses_succ_of_next hs, runResponses_succ_of_next ht, h'.rsp_eq, ih h']
    · rw [runResponses_succ_of_fault hs, runResponses_succ_of_fault ht]
    · rw [runResponses_succ_of_refused hs, runResponses_succ_of_refused ht]

/-- Settles O52: after reset `INIT = 0`, so the engines agree whatever words and free values they hold. -/
theorem responsesDependOnTheCommandsAlone : Obligations.ResponsesDependOnTheCommandsAlone := by
  intro k h a b m n
  refine runResponses_agree ?_ k
  exact State.agree_of_uninit rfl rfl rfl rfl rfl

end Sys2Proof.Machine
end

section
/-! SUPPORT. The statements about what ends and what leaves alone a state: the halted engine (60_exceptions.md rule R115), the
order of the checks (rule R112), the sticky flags (10_state.md rule R28), reset by the host (70_reset_and_hazards.md rule R130)
and the idle engine (60_exceptions.md rule R127). -/

namespace Sys2Proof.Machine

/-! ## The halted engine -/

theorem runCommand_of_fault (c : CmdWord) {s : State} (h : s.fault = true) : runCommand c s = .fault .halted := by
  cases hdec : decode c with
  | instr i => rw [runCommand_instr hdec, exec_of_fault i h]
  | reserved op => rw [runCommand_reserved hdec, refuseIllegal, accept_of_fault h]

/-- A halted engine has no step but a reset (60_exceptions.md rule R115). -/
theorem step_of_fault {s : State} (h : s.fault = true) (hreset : ∀ rest, s.host ≠ .reset :: rest) :
    step s = .fault .halted := by
  match hhost : s.host with
  | [] => rw [step_idle hhost, idle, accept_of_fault h]
  | .reset :: rest => exact absurd hhost (hreset rest)
  | .command c :: rest => rw [step_command hhost, runCommand_of_fault c ((State.withHost_fault s rest).trans h)]

/-- Settles O14: the check of `FAULT` comes first everywhere but in a reset. -/
theorem haltedEngineHasOnlyReset : Obligations.HaltedEngineHasOnlyReset := fun _ hhalt =>
  ⟨cmdReady_of_halted hhalt, fun i => exec_of_fault i hhalt, step_of_fault hhalt,
    fun _ hhost => ⟨_, step_reset hhost, rfl, rfl⟩⟩

/-- Settles O10: the step is the reset operation, which draws four free values. -/
theorem resetActionClearsFlags : Obligations.ResetActionClearsFlags := fun _ _ hhost => step_reset hhost

/-- Settles O15: idling ends the last response and keeps the rest. -/
theorem idleEngineKeepsItsState : Obligations.IdleEngineKeepsItsState := by
  intro s hhost hrun
  rw [step_idle hhost, idle, accept_of_running hrun, State.noResponse]

/-! ## The order of the checks -/

theorem deliver_of_isNone {out : Option Word} (h : out.isNone = true) (s : State) : deliver out s = s.raiseDivZero := by
  rw [Option.isNone_iff_eq_none.mp h, deliver]

theorem exists_deliver_rsp_ok {out : Option Word} (h : out.isNone = false) (s : State) :
    ∃ v, (deliver out s).rsp = some (.ok v) := by
  cases out with
  | some v => exact ⟨resOf v, rfl⟩
  | none => cases h

/-- Neither a constructor nor an inspection command divides. -/
theorem dividesByZero_of_built {i : Instr} {r : Words} (h : builtWords i = some r) : i.dividesByZero = false := by
  cases i with
  | fromSeed | fromState64 | fromState32 => rfl
  | getState32 | getState64 | fullState | next | nextU32 | nextBounded | nextRanged => cases h

theorem dividesByZero_of_inspected {i : Instr} {f : Words → Res} (h : inspectedValue i = some f) :
    i.dividesByZero = false := by
  cases i with
  | getState32 | getState64 | fullState => rfl
  | fromSeed | fromState64 | fromState32 | next | nextU32 | nextBounded | nextRanged => cases h

/-- The response and `FAULT` after an instruction, by the checks that are left to it: `INIT`, then the divisor
(60_exceptions.md rules R111 to R113, R118). -/
theorem exec_answer {i : Instr} {s t : State} (h : exec i s = .next t) :
    if i.isConstructor = false ∧ s.init = false then t.rsp = some .uninit ∧ t.fault = false
    else if i.dividesByZero then t.rsp = some .divZero ∧ t.fault = true
    else (∃ v, t.rsp = some (.ok v)) ∧ t.fault = false := by
  obtain ⟨hrun, ⟨r, hr, rfl⟩ | ⟨hinit, f, hf, rfl⟩ | ⟨hinit, f, hf, rfl⟩ | ⟨hinit, hb, rfl⟩⟩ := exec_cases h
  · obtain ⟨hcons, -, -⟩ := classes_of_built hr
    simp [hcons, dividesByZero_of_built hr, hrun]
  · simp [hinit, dividesByZero_of_inspected hf, hrun]
  · have hnone := generatedValue_isNone hf (nextStep s.regs).w
    cases hdiv : i.dividesByZero with
    | true => simp [hinit, deliver_of_isNone (hnone.trans hdiv)]
    | false => simp [hinit, exists_deliver_rsp_ok (hnone.trans hdiv), hnone, hdiv, hrun]
  · have hcons : i.isConstructor = false := by rw [isConstructor_eq, hb, Option.isSome_none]
    simp [hcons, hinit, hrun]

/-- Settles O16: `FAULT` is checked first (`runCommand_of_fault`), then the opcode, then what `exec_answer` says. -/
theorem checksApplyInOrder : Obligations.ChecksApplyInOrder := by
  intro s c rest hhost
  cases hfault : s.fault with
  | true =>
    rw [if_pos rfl, step_command hhost, runCommand_of_fault c ((State.withHost_fault s rest).trans hfault)]
  | false =>
    rw [if_neg Bool.false_ne_true]
    have hrun : (s.withHost rest).fault = false := hfault
    cases hdec : decode c with
    | reserved op =>
      refine ⟨(s.withHost rest).respond .illegal, ?_, rfl, rfl, hrun⟩
      rw [step_command hhost, runCommand_reserved hdec, refuseIllegal, accept_of_running hrun]
    | instr i =>
      obtain ⟨t, hexec⟩ := exec_of_running i hrun
      obtain ⟨hkept, -⟩ := instructionsKeepTheirFrame i _ t hexec
      exact ⟨t, (step_command_instr hhost hdec).trans hexec, hkept, exec_answer (s := s.withHost rest) hexec⟩

/-! ## The flags -/

/-- What an instruction can do to the flags (10_state.md rule R28). -/
theorem exec_flags {i : Instr} {s t : State} (h : exec i s = .next t) :
    s.fault = false ∧ (s.init = true → t.init = true) ∧
      (s.init = false → t.init = true → i.isConstructor = true) ∧
      (t.fault = true → s.init = true ∧ i.dividesByZero = true) := by
  obtain ⟨hrun, ⟨r, hr, rfl⟩ | ⟨hinit, f, -, rfl⟩ | ⟨hinit, f, hf, rfl⟩ | ⟨hinit, -, rfl⟩⟩ := exec_cases h
  · obtain ⟨hcons, -, -⟩ := classes_of_built hr
    simp [hcons, hrun]
  · simp [hinit, hrun]
  · simp [hinit, hrun, generatedValue_isNone hf]
  · simp [hinit, hrun]

/-- Settles O48: an instruction changes the flags as `exec_flags` says; refusing a reserved opcode and idling keep them. -/
theorem flagsAreStickyAndSetOnlyByTheirCommands : Obligations.FlagsAreStickyAndSetOnlyByTheirCommands := by
  intro s t h hreset
  obtain ⟨c, rest, i, hhost, hdec, hexec⟩ | ⟨c, rest, op, -, -, hrun, rfl⟩ | ⟨rest, hhost, -⟩ | ⟨-, hrun, rfl⟩ :=
    step_cases h
  · obtain ⟨hrun, hkept, hset, hfault⟩ := exec_flags hexec
    refine ⟨hrun, hkept, fun hs ht => ⟨c, rest, i, hhost, hdec, hset hs ht⟩, fun ht => ?_⟩
    obtain ⟨hinit, hdiv⟩ := hfault ht
    exact ⟨hinit, c, rest, i, hhost, hdec, hdiv⟩
  · simp +contextual [hrun]
  · exact absurd hhost (hreset rest)
  · simp +contextual [hrun]

end Sys2Proof.Machine
end

section
/-! SUPPORT. The corner cases of the seeder (40_construct.md rule R70). -/

namespace Sys2Proof.Machine

/-- Settles O25: the seed is the first word; from a first word 0 the second one is 1. -/
theorem seederIsInjectiveAndNeverZero : Obligations.SeederIsInjectiveAndNeverZero := by
  refine ⟨fun a b h => congrArg Words.x h, fun a h => ?_⟩
  have hx : a = 0#32 := congrArg Words.x h
  have hy : lcg a = 0#32 := congrArg Words.y h
  subst hx
  exact absurd hy (by decide)

end Sys2Proof.Machine
end

section
/-! SUPPORT. The algebra of the step: linearity (42_advance.md rule R94), the inverse (rule R95), the recurrence of the outputs
(rule R93) and the zero state (rule R92). The word that leaves the engine, `x`, enters the new `w` through two linear stages,
each with an inverse; everything follows from the two. -/

namespace Sys2Proof.Machine

/-! ## The two stages and their inverses -/

/-- `t` of 42_advance.md rule R90. -/
def shlStage (x : Word) : Word := x ^^^ (x <<< 11)

/-- The part of the new `w` that comes from `t`. -/
def shrStage (t : Word) : Word := t ^^^ (t >>> 8)

/-- `x` from `t` (42_advance.md rule R95). -/
def shlStageInv (t : Word) : Word := t ^^^ (t <<< 11) ^^^ (t <<< 22)

/-- `t` from the part of the new `w` (42_advance.md rule R95). -/
def shrStageInv (u : Word) : Word := u ^^^ (u >>> 8) ^^^ (u >>> 16) ^^^ (u >>> 24)

/-- The step by its stages (42_advance.md rule R90). -/
theorem nextStep_eq_stages (r : Words) :
    nextStep r = ⟨r.y, r.z, r.w, (r.w ^^^ (r.w >>> 19)) ^^^ shrStage (shlStage r.x)⟩ := by
  simp only [nextStep_eq, shrStage, shlStage, BitVec.xor_assoc]

/-- The inverse by its stages (42_advance.md rule R95). -/
theorem prevStep_eq_stages (r : Words) :
    prevStep r = ⟨shlStageInv (shrStageInv ((r.z ^^^ (r.z >>> 19)) ^^^ r.w)), r.x, r.y, r.z⟩ := by
  rw [BitVec.xor_comm (r.z ^^^ (r.z >>> 19)), ← BitVec.xor_assoc]
  rfl

theorem shlStage_xor (a b : Word) : shlStage (a ^^^ b) = shlStage a ^^^ shlStage b := by
  simp only [shlStage, BitVec.shiftLeft_xor_distrib]
  ac_rfl

theorem shrStage_xor (a b : Word) : shrStage (a ^^^ b) = shrStage a ^^^ shrStage b := by
  simp only [shrStage, BitVec.ushiftRight_xor_distrib]
  ac_rfl

/-- The same word twice is no word. -/
theorem xor_xor_cancel_left (a b : Word) : a ^^^ (a ^^^ b) = b := by
  rw [← BitVec.xor_assoc, BitVec.xor_self, BitVec.zero_xor]

/-- Neighbours in a chain of sums cancel. -/
theorem xor_telescope (a b c : Word) : (a ^^^ b) ^^^ (b ^^^ c) = a ^^^ c := by
  rw [BitVec.xor_assoc, xor_xor_cancel_left]

/-- Each shifted copy cancels the one before it, and the last one has left the word. -/
theorem shlStage_telescope (t : Word) : shlStage t ^^^ shlStage (t <<< 11) ^^^ shlStage (t <<< 22) = t := by
  calc shlStage t ^^^ shlStage (t <<< 11) ^^^ shlStage (t <<< 22)
      = t ^^^ t <<< 33 := by simp only [shlStage, ← BitVec.shiftLeft_add, Nat.reduceAdd, xor_telescope]
    _ = t := by rw [BitVec.shiftLeft_eq_zero (by decide), BitVec.xor_zero]

theorem shrStage_telescope (u : Word) :
    shrStage u ^^^ shrStage (u >>> 8) ^^^ shrStage (u >>> 16) ^^^ shrStage (u >>> 24) = u := by
  calc shrStage u ^^^ shrStage (u >>> 8) ^^^ shrStage (u >>> 16) ^^^ shrStage (u >>> 24)
      = u ^^^ u >>> 32 := by simp only [shrStage, ← BitVec.shiftRight_add, Nat.reduceAdd, xor_telescope]
    _ = u := by rw [BitVec.ushiftRight_eq_zero (by decide), BitVec.xor_zero]

theorem shlStage_shiftLeft (x : Word) (n : Nat) : shlStage (x <<< n) = shlStage x <<< n := by
  rw [shlStage, shlStage, BitVec.shiftLeft_xor_distrib, ← BitVec.shiftLeft_add, ← BitVec.shiftLeft_add, Nat.add_comm]

theorem shrStage_ushiftRight (t : Word) (n : Nat) : shrStage (t >>> n) = shrStage t >>> n := by
  rw [shrStage, shrStage, BitVec.ushiftRight_xor_distrib, ← BitVec.shiftRight_add, ← BitVec.shiftRight_add, Nat.add_comm]

theorem shlStage_shlStageInv (t : Word) : shlStage (shlStageInv t) = t := by
  rw [shlStageInv, shlStage_xor, shlStage_xor, shlStage_telescope]

theorem shlStageInv_shlStage (x : Word) : shlStageInv (shlStage x) = x := by
  rw [shlStageInv, ← shlStage_shiftLeft, ← shlStage_shiftLeft, shlStage_telescope]

theorem shrStage_shrStageInv (u : Word) : shrStage (shrStageInv u) = u := by
  rw [shrStageInv, shrStage_xor, shrStage_xor, shrStage_xor, shrStage_telescope]

theorem shrStageInv_shrStage (t : Word) : shrStageInv (shrStage t) = t := by
  rw [shrStageInv, ← shrStage_ushiftRight, ← shrStage_ushiftRight, ← shrStage_ushiftRight, shrStage_telescope]

/-! ## Linearity and the inverse -/

/-- Settles O36: the shifts and the stages are linear. -/
theorem stepIsLinearOverXor : Obligations.StepIsLinearOverXor := by
  intro a b
  simp only [nextStep_eq_stages, Words.xor, shlStage_xor, shrStage_xor, BitVec.ushiftRight_xor_distrib, Words.mk.injEq,
    true_and]
  ac_rfl

theorem prevStep_nextStep (r : Words) : prevStep (nextStep r) = r := by
  rw [nextStep_eq_stages, prevStep_eq_stages, xor_xor_cancel_left, shrStageInv_shrStage, shlStageInv_shlStage]

theorem nextStep_prevStep (r : Words) : nextStep (prevStep r) = r := by
  rw [prevStep_eq_stages, nextStep_eq_stages, shlStage_shlStageInv, shrStage_shrStageInv, xor_xor_cancel_left]

/-- Settles O37: the stages are undone in the reverse order. -/
theorem stepIsABijection : Obligations.StepIsABijection := ⟨prevStep_nextStep, nextStep_prevStep⟩

/-! ## Runs of outputs -/

theorem nextStep_injective : Function.Injective nextStep := Function.LeftInverse.injective prevStep_nextStep

theorem stepsFrom_injective (k : Nat) : Function.Injective (stepsFrom · k) := by
  induction k with
  | zero => exact Function.injective_id
  | succ k ih => exact nextStep_injective.comp ih

/-- Three words move down, so after four steps all of them are outputs (42_advance.md rule R93). -/
theorem stepsFrom_add_four (r : Words) (k : Nat) :
    stepsFrom r (k + 4) =
      ⟨(stepsFrom r (k + 1)).w, (stepsFrom r (k + 2)).w, (stepsFrom r (k + 3)).w, (stepsFrom r (k + 4)).w⟩ := rfl

/-- The recurrence: the step that makes output `k + 5` finds outputs `k + 1` and `k + 4` in `x` and `w`. -/
theorem output_recurrence (r : Words) (k : Nat) :
    (stepsFrom r (k + 5)).w =
      (let t := (stepsFrom r (k + 1)).w ^^^ ((stepsFrom r (k + 1)).w <<< 11)
       (stepsFrom r (k + 4)).w ^^^ ((stepsFrom r (k + 4)).w >>> 19) ^^^ t ^^^ (t >>> 8)) :=
  congrArg Words.w (nextStep_eq (stepsFrom r (k + 4)))

/-- Settles O35: equal outputs are equal words four steps on, and the steps are injective. -/
theorem fourOutputsDetermineTheState : Obligations.FourOutputsDetermineTheState := by
  refine ⟨fun r k => ⟨stepsFrom_add_four r k, output_recurrence r k⟩, fun r q k h => ?_⟩
  apply stepsFrom_injective (k + 4)
  simp only
  rw [stepsFrom_add_four r, stepsFrom_add_four q, h 1 (by decide) (by decide), h 2 (by decide) (by decide),
    h 3 (by decide) (by decide), h 4 (by decide) (by decide)]

/-! ## The zero state -/

/-- Descent on the set bits: a word in which each of them has another one three places below has none. -/
theorem eq_zero_of_bit_descent {t : Word} (h : ∀ j, t.getLsbD j = true → (t <<< 3).getLsbD j = true) : t = 0#32 := by
  have hbits : ∀ j, t.getLsbD j = false := by
    intro j
    induction j using Nat.strongRecOn with
    | ind j ih =>
      refine Bool.eq_false_of_not_eq_true fun hj => ?_
      have hbelow : (j < 32 ∧ 3 ≤ j) ∧ t.getLsbD (j - 3) = true := by simpa using h j hj
      obtain ⟨⟨-, h3⟩, hbit⟩ := hbelow
      exact Bool.false_ne_true ((ih (j - 3) (by omega)).symm.trans hbit)
  exact BitVec.eq_of_getLsbD_eq fun j _ => (hbits j).trans BitVec.getLsbD_zero.symm

/-- A further shift moves a bit on. -/
theorem getLsbD_shiftLeft_add (v : Word) (m n : Nat) {j : Nat} (hj : n + j < 32) :
    (v <<< (m + n)).getLsbD (n + j) = (v <<< m).getLsbD j := by
  rw [BitVec.shiftLeft_add, BitVec.getLsbD_shiftLeft, Nat.add_sub_cancel_left]
  simp [hj]

section

/-! A fixed point `x` is sent by the stages to its own high 13 bits: so `t` has 13 bits only, and makes up `x`. -/

variable {x t : Word} (ht : t = shrStageInv (x >>> 19)) (hx : x = shlStageInv t)

include ht in
theorem getLsbD_t_of_fixed (j : Nat) : t.getLsbD j = (x.getLsbD (19 + j) ^^ x.getLsbD (27 + j)) := by
  have hlost : ∀ n, 32 ≤ n → x.getLsbD (n + j) = false := fun n hn => BitVec.getLsbD_of_ge x _ (by omega)
  simp only [ht, shrStageInv, ← BitVec.shiftRight_add, BitVec.getLsbD_xor, BitVec.getLsbD_ushiftRight, Nat.reduceAdd,
    hlost 35 (by decide), hlost 43 (by decide), Bool.xor_false]

include ht in
theorem getLsbD_t_high_of_fixed {j : Nat} (hj : 13 ≤ j) : t.getLsbD j = false := by
  rw [getLsbD_t_of_fixed ht, BitVec.getLsbD_of_ge x _ (by omega), BitVec.getLsbD_of_ge x _ (by omega), Bool.xor_false]

include ht hx in
theorem getLsbD_x_of_fixed {j : Nat} (hj : j < 13) :
    x.getLsbD (19 + j) = (t.getLsbD (8 + j) ^^ (t <<< 3).getLsbD j) := by
  have h11 : (t <<< 11).getLsbD (19 + j) = t.getLsbD (8 + j) := by
    have hsum : 19 + j = 11 + (8 + j) := by omega
    rw [hsum, getLsbD_shiftLeft_add t 0 11 (by omega), BitVec.shiftLeft_zero]
  have h22 : (t <<< 22).getLsbD (19 + j) = (t <<< 3).getLsbD j := getLsbD_shiftLeft_add t 3 19 (by omega)
  rw [hx, shlStageInv, BitVec.getLsbD_xor, BitVec.getLsbD_xor, h11, h22, getLsbD_t_high_of_fixed ht (by omega),
    Bool.false_xor]

include ht hx in
/-- From bit 5 up the second term of `t` is gone. -/
theorem getLsbD_t_upper_of_fixed {j : Nat} (h5 : 5 ≤ j) (h13 : j < 13) :
    t.getLsbD j = (t <<< 3).getLsbD j := by
  rw [getLsbD_t_of_fixed ht, getLsbD_x_of_fixed ht hx h13, BitVec.getLsbD_of_ge x _ (by omega),
    getLsbD_t_high_of_fixed ht (by omega), Bool.false_xor, Bool.xor_false]

include ht hx in
/-- Below bit 5 the second term cancels the upper bit of the first. -/
theorem getLsbD_t_lower_of_fixed {j : Nat} (h5 : j < 5) : t.getLsbD j = (t <<< 3).getLsbD j := by
  have hsum : 27 + j = 19 + (8 + j) := by omega
  have hgone : t.getLsbD (8 + (8 + j)) = false := getLsbD_t_high_of_fixed ht (by omega)
  have hupper : t.getLsbD (8 + j) = (t <<< 3).getLsbD (8 + j) := getLsbD_t_upper_of_fixed ht hx (by omega) (by omega)
  rw [getLsbD_t_of_fixed ht, hsum, getLsbD_x_of_fixed ht hx (by omega), getLsbD_x_of_fixed ht hx (by omega), hgone,
    hupper, Bool.false_xor, Bool.xor_comm, ← Bool.xor_assoc, Bool.xor_self, Bool.false_xor]

include ht hx in
theorem bit_descent_of_fixed {j : Nat} (hj : t.getLsbD j = true) : (t <<< 3).getLsbD j = true := by
  by_cases h5 : j < 5
  · rw [← getLsbD_t_lower_of_fixed ht hx h5, hj]
  by_cases h13 : j < 13
  · rw [← getLsbD_t_upper_of_fixed ht hx (Nat.le_of_not_lt h5) h13, hj]
  · exact absurd ((getLsbD_t_high_of_fixed ht (Nat.le_of_not_lt h13)).symm.trans hj) Bool.false_ne_true

end

/-- The uniqueness of 42_advance.md rule R92. -/
theorem nextStep_eq_self_iff (r : Words) : nextStep r = r ↔ r = ⟨0#32, 0#32, 0#32, 0#32⟩ := by
  constructor
  · intro h
    obtain ⟨x, y, z, w⟩ := r
    rw [nextStep_eq_stages, Words.mk.injEq] at h
    dsimp only at h
    obtain ⟨rfl, rfl, rfl, hw⟩ := h
    have hstages : shrStage (shlStage w) = w >>> 19 := by
      rw [← xor_xor_cancel_left (w ^^^ (w >>> 19)) (shrStage (shlStage w)), hw, BitVec.xor_comm, xor_xor_cancel_left]
    have ht : shlStage w = shrStageInv (w >>> 19) := by rw [← hstages, shrStageInv_shrStage]
    have hx : w = shlStageInv (shlStage w) := (shlStageInv_shlStage w).symm
    have hzero : shlStage w = 0#32 := eq_zero_of_bit_descent fun _ hj => bit_descent_of_fixed ht hx hj
    rw [hx, hzero]
    decide
  · rintro rfl
    decide

/-- The words of the zero state. -/
abbrev zeroWords : Words := ⟨0#32, 0#32, 0#32, 0#32⟩

/-- A command that is no constructor keeps the words or takes one step. -/
theorem exec_words_of_not_constructor {i : Instr} {s t : State} (hcons : i.isConstructor = false)
    (h : exec i s = .next t) : t.regs = s.regs ∨ t.regs = nextStep s.regs := by
  obtain ⟨-, ⟨r, hr, rfl⟩ | ⟨-, f, -, rfl⟩ | ⟨-, f, -, rfl⟩ | ⟨-, -, rfl⟩⟩ := exec_cases h
  · obtain ⟨hbuilt, -, -⟩ := classes_of_built hr
    exact absurd (hcons.symm.trans hbuilt) Bool.false_ne_true
  · exact .inl rfl
  · exact .inr (deliver_regs ..)
  · exact .inl rfl

/-- Both raw generation commands answer the new `w` (42_advance.md rules R90, R91). -/
theorem exec_raw_rsp {i : Instr} (hi : i = .next ∨ i = .nextU32) {s t : State} (hinit : s.init = true)
    (h : exec i s = .next t) : t.rsp = some (.ok ((nextStep s.regs).w.setWidth 256)) := by
  have hvalue : generatedValue i = some fun v => some v := by
    obtain rfl | rfl := hi
    · rfl
    · exact generatedValue_nextU32
  obtain ⟨hrun, -⟩ := exec_cases h
  rw [exec_generated_of_init hvalue hrun hinit] at h
  cases h
  rfl

/-- Settles O34: the only fixed point is zero (`nextStep_eq_self_iff`), so a step from zero stays there and has output 0. -/
theorem zeroIsTheOnlyFixedPoint : Obligations.ZeroIsTheOnlyFixedPoint := by
  have hfixed : nextStep zeroWords = zeroWords := (nextStep_eq_self_iff _).mpr rfl
  refine ⟨nextStep_eq_self_iff, fun i s t hzero hcons hexec => ⟨?_, fun hi hinit => ?_⟩⟩
  · obtain hkept | hstep := exec_words_of_not_constructor hcons hexec
    · rw [hkept, hzero]
    · rw [hstep, hzero, hfixed]
  · rw [exec_raw_rsp hi hinit hexec, hzero, hfixed, BitVec.setWidth_zero]

end Sys2Proof.Machine
end

section
/-! SUPPORT. The statements of 43_bounded.md that the spec infers: how often `NEXTBOUNDED` gives each residue (rule R102), that a
signed interval holds its results (rule R101), and the laws of `NEXTRANGED` (rule R103). -/

namespace Sys2Proof.Machine

/-! ## Residues -/

/-- A raw output has the remainder `r` exactly when it lies in the residue class of `r`. -/
theorem urem32_ofNat_eq_iff {max r : Word} (hr : r.toNat < max.toNat) {v : Nat} (hv : v < 2 ^ 32) :
    urem32 (BitVec.ofNat 32 v) max = r ↔ v ≡ r.toNat [MOD max.toNat] := by
  rw [← BitVec.toNat_inj, toNat_urem32, BitVec.toNat_ofNat, Nat.mod_eq_of_lt hv, Nat.ModEq, Nat.mod_eq_of_lt hr]

/-- Settles O41: the outputs are counted by the members of a residue class below `2^32`. -/
theorem boundedResiduesAreCounted : Obligations.BoundedResiduesAreCounted := by
  intro max r hmax hr
  have hcount : Nat.count (fun v => urem32 (BitVec.ofNat 32 v) max = r) (2 ^ 32) =
      Nat.count (· ≡ r.toNat [MOD max.toNat]) (2 ^ 32) :=
    le_antisymm (Nat.count_mono_left fun v hv => (urem32_ofNat_eq_iff hr hv).mp)
      (Nat.count_mono_left fun v hv => (urem32_ofNat_eq_iff hr hv).mpr)
  rw [hcount, Nat.count_modEq_card (2 ^ 32) (BitVec.toNat_pos_of_ne_zero hmax), Nat.mod_eq_of_lt hr]

/-! ## The interval -/

/-- `delta` of a signed interval is its length, so an offset below `delta` stays inside, without a wrap of the signed
reading. -/
theorem signed32_add32_mem_interval {start stop u : Word} (hlt : signed32 start < signed32 stop)
    (hu : u.toNat < (sub32 stop start).toNat) :
    signed32 start ≤ signed32 (add32 start u) ∧ signed32 (add32 start u) < signed32 stop := by
  have hstart : start.toNat < 2 ^ 32 := start.isLt
  have hstop : stop.toNat < 2 ^ 32 := stop.isLt
  rw [toNat_sub32_eq_mod] at hu
  simp only [signed32, toNat_add32] at hlt ⊢
  omega

theorem ne_of_signed32_lt {start stop : Word} (hlt : signed32 start < signed32 stop) : start ≠ stop := by
  rintro rfl
  exact lt_irrefl _ hlt

/-- Settles O43: the remainder is an offset below `delta`. -/
theorem rangedResultLiesInTheInterval : Obligations.RangedResultLiesInTheInterval := by
  intro start stop s hrun hinit hlt
  have hne : start ≠ stop := ne_of_signed32_lt hlt
  have hoffset := toNat_urem32_lt (nextStep s.regs).w (mt sub32_eq_zero_iff.mp hne)
  exact ⟨_, _, exec_nextRanged_of_ne hne hrun hinit, rfl, signed32_add32_mem_interval hlt hoffset⟩

/-! ## Laws of `NEXTRANGED` -/

/-- With `start = 0`, `delta` is `end`, and nothing is added to the remainder. -/
theorem generatedValue_nextRanged_zero (stop : Word) :
    generatedValue (.nextRanged 0#32 stop) = generatedValue (.nextBounded stop) := by
  simp only [generatedValue, sub32, add32, BitVec.sub_zero, BitVec.zero_add]

/-- Shifting both operands keeps `delta`. -/
theorem sub32_add_add (start stop k : Word) : sub32 (stop + k) (start + k) = sub32 stop start :=
  add_sub_add_right_eq_sub stop start k

theorem add32_add_right (start k u : Word) : add32 (start + k) u = add32 start u + k :=
  add_right_comm start k u

/-- A word can be read back from `RES` (30_encoding.md rule R58). -/
theorem resOf_injective : Function.Injective (resOf : Word → Res) := by
  have hback : Function.LeftInverse (BitVec.setWidth 32) (resOf : Word → Res) := fun v => by simp [resOf]
  exact hback.injective

/-- A generation command that answers a word took its step, and the word is its value. -/
theorem exec_generated_ok {i : Instr} {f : Word → Option Word} (hf : generatedValue i = some f) {s t : State} {r : Word}
    (h : exec i s = .next t) (hrsp : t.rsp = some (.ok (resOf r))) :
    s.fault = false ∧ s.init = true ∧ f (nextStep s.regs).w = some r := by
  rw [exec_generated hf] at h
  obtain ⟨hrun, ⟨hinit, rfl⟩ | ⟨-, rfl⟩⟩ := generate_eq_next_iff.mp h
  · refine ⟨hrun, hinit, ?_⟩
    rw [State.advance_regs] at hrsp
    match hout : f (nextStep s.regs).w with
    | none =>
      rw [hout] at hrsp
      cases hrsp
    | some v =>
      rw [hout] at hrsp
      have hval : resOf v = resOf r := Response.ok.inj (Option.some.inj hrsp)
      rw [resOf_injective hval]
  · cases hrsp

/-- `NEXTRANGED` answers a word only if it divided, and then by its rule (43_bounded.md rule R101). -/
theorem exec_nextRanged_ok {start stop r : Word} {s t : State} (h : exec (.nextRanged start stop) s = .next t)
    (hrsp : t.rsp = some (.ok (resOf r))) :
    s.fault = false ∧ s.init = true ∧ start ≠ stop ∧
      r = add32 start (urem32 (nextStep s.regs).w (sub32 stop start)) := by
  obtain ⟨hrun, hinit, hvalue⟩ := exec_generated_ok rfl h hrsp
  obtain ⟨hdelta, hr⟩ := Option.ite_none_left_eq_some.mp hvalue
  exact ⟨hrun, hinit, mt sub32_eq_zero_iff.mpr hdelta, (Option.some.inj hr).symm⟩

/-- Settles O45: with `start = 0` the two commands have one value; a shift of both operands keeps `delta` and moves the
sum. -/
theorem rangedShiftsWithItsOperands : Obligations.RangedShiftsWithItsOperands := by
  refine ⟨fun stop => exec_congr_generatedValue (generatedValue_nextRanged_zero stop) rfl, ?_⟩
  intro start stop k r s t hexec hrsp
  obtain ⟨hrun, hinit, hne, rfl⟩ := exec_nextRanged_ok hexec hrsp
  have hne' : start + k ≠ stop + k := mt (add_right_cancel (b := k)) hne
  rw [exec_nextRanged_of_ne hne hrun hinit] at hexec
  cases hexec
  rw [exec_nextRanged_of_ne hne' hrun hinit, sub32_add_add, add32_add_right]

end Sys2Proof.Machine
end
